-- ==== Sys2Proof/Config.lean ====
section
/-! DEFINITION. What is fixed when the block is built: the parameter tables and limits of R3, R4 and R5. None of it is
state (R37), no command writes it (R51). -/

namespace Sys2Proof

/-- The two tables of the ADPCM unit with the shape R3 gives them: STEP_SIZE has 49 positive, strictly increasing
entries; STEP_ADJUST has 16 integers keyed by the code. -/
structure CodecTables where
  stepSize : List Nat
  stepAdjust : List Int
  stepSize_length : stepSize.length = 49
  stepSize_pos : ∀ x ∈ stepSize, 0 < x
  stepSize_increasing : stepSize.Pairwise (· < ·)
  stepAdjust_length : stepAdjust.length = 16

/-- The two size limits of the pixel unit, MAX_VIEW_W and MAX_VIEW_H (R4). -/
structure ViewLimits where
  maxW : Nat
  maxH : Nat

/-- The tables of the frame timing unit (R5). An entry at an index at or above `nrc` or `nfps` is read by no command. -/
structure TimingTables where
  /-- NRC, the number of sample-rate classes. -/
  nrc : Nat
  /-- NFPS, the number of frame rates. -/
  nfps : Nat
  /-- BYTERATE[rc]. -/
  byterate : Nat → Nat
  /-- FPS_NUM[k]. -/
  fpsNum : Nat → Nat
  /-- FPS_DEN[k]. -/
  fpsDen : Nat → Nat
  /-- CAL[rc][k]: the calibrated byte count, where there is one (90_conflicts.md C1). -/
  cal : Nat → Nat → Option Nat
  /-- RATECODE[rc]. -/
  ratecode : Nat → BitVec 32
  /-- FDUR_A[k]. -/
  fdurA : Nat → BitVec 32
  /-- FDUR_B[k]. -/
  fdurB : Nat → BitVec 32

/-- What the spec demands of the frame timing tables: the ranges of R5 and R171 and the two fixed points of R163. -/
structure TimingTables.Legal (t : TimingTables) : Prop where
  nrc_range : 1 ≤ t.nrc ∧ t.nrc ≤ 256
  nfps_range : 1 ≤ t.nfps ∧ t.nfps ≤ 256
  byterate_pos : ∀ rc < t.nrc, 0 < t.byterate rc
  fpsNum_pos : ∀ k < t.nfps, 0 < t.fpsNum k
  fpsDen_pos : ∀ k < t.nfps, 0 < t.fpsDen k
  /-- A calibrated value, and the fallback of a pair without one, is below 2^24 (R5, R171). -/
  value_lt : ∀ rc < t.nrc, ∀ k < t.nfps,
    (t.cal rc k).getD (t.byterate rc * t.fpsDen k / t.fpsNum k) < 2 ^ 24
  /-- The source's first fixed point: 520 at 15 frames per second. -/
  point_520 : ∃ rc < t.nrc, ∃ k < t.nfps, t.fpsNum k = 15 * t.fpsDen k ∧
    (t.cal rc k).getD (t.byterate rc * t.fpsDen k / t.fpsNum k) = 520
  /-- The source's second fixed point: 4266 at 30 frames per second. -/
  point_4266 : ∃ rc < t.nrc, ∃ k < t.nfps, t.fpsNum k = 30 * t.fpsDen k ∧
    (t.cal rc k).getD (t.byterate rc * t.fpsDen k / t.fpsNum k) = 4266

/-- Everything a block is built with: the parameters the spec makes arguments of the model (R3, R4, R5). -/
structure Parameters where
  /-- STEP_SIZE and STEP_ADJUST (R3). -/
  codec : CodecTables
  /-- MAX_VIEW_W and MAX_VIEW_H (R4). -/
  view : ViewLimits
  /-- The tables of the frame timing unit (R5). -/
  timing : TimingTables

namespace Config

/-- The default tables of R52 and R53. The spec marks their numbers "from general knowledge, not in source".
PRESUMED, unsafe: log 4. -/
def codec : CodecTables where
  stepSize :=
    [16, 17, 19, 21, 23, 25, 28, 31, 34, 37, 41, 45, 50, 55, 60, 66, 73, 80, 88, 97, 107, 118, 130, 143, 157] ++
    [173, 190, 209, 230, 253, 279, 307, 337, 371, 408, 449, 494, 544, 598, 658, 724, 796, 876, 963, 1060, 1166] ++
    [1282, 1411, 1552]
  stepAdjust := [-1, -1, -1, -1, 2, 4, 6, 8, -1, -1, -1, -1, 2, 4, 6, 8]
  stepSize_length := by decide
  stepSize_pos := by decide
  stepSize_increasing := by decide
  stepAdjust_length := by decide

/-- What STEP_SIZE reads as at an index outside 0..48: no rule gives a value there, and no reachable state reads one
(R21, R51). A constant with no body: a theorem holds whatever it is. DESIGN CHOICE, safe: log 7. -/
opaque stepSizeOutside : Nat → Nat

/-- MAX_VIEW_W at its default (R4, D9). DESIGN CHOICE, unsafe: log 5. -/
def maxViewW : Nat := 384

/-- MAX_VIEW_H at its default (R4, D9). DESIGN CHOICE, unsafe: log 5. -/
def maxViewH : Nat := 256

/-- The illustrative parameter set of 95_test_vectors.md V-F2 and V-F3. It is NOT the block's: it shows that legal
tables exist, and tests use it. -/
def illustrative : TimingTables where
  nrc := 2
  nfps := 2
  byterate := fun rc => if rc = 0 then 7800 else 128000
  fpsNum := fun k => if k = 0 then 15 else 30
  fpsDen := fun _ => 1
  cal := fun _ _ => none
  ratecode := fun rc => if rc = 0 then 0x00000005#32 else 0x00010002#32
  fdurA := fun _ => 1#32
  fdurB := fun k => if k = 0 then 15#32 else 30#32

theorem illustrative_legal : illustrative.Legal where
  nrc_range := by decide
  nfps_range := by decide
  byterate_pos := by decide
  fpsNum_pos := by decide
  fpsDen_pos := by decide
  value_lt := by decide
  point_520 := ⟨0, by decide, 0, by decide, by decide, by decide⟩
  point_4266 := ⟨1, by decide, 1, by decide, by decide, by decide⟩

/-- Frame timing tables together with their legality. The default values of the fields only show that the type has
a member; the constant below does not take them. -/
structure LegalTiming where
  tables : TimingTables := illustrative
  legal : tables.Legal := by exact illustrative_legal
deriving Inhabited

/-- The block's frame timing tables: OPEN in the spec (R5, R54, D15), so an opaque constant with no body. A theorem
about it holds for every legal set of tables. Log 6. -/
opaque timing : LegalTiming

end Config

end Sys2Proof
end

