-- ==== Sys2Proof/Word.lean ====
section
/-! DEFINITION. The word types of the block: the widths the spec names. -/

namespace Sys2Proof

/-- A byte of the packed-pixel buffer or of the code stream (R56, R81). -/
abbrev Byte := BitVec 8

/-- The 40-bit command word `op ‖ arg` of R70. -/
abbrev CommandWord := BitVec 40

/-- The 32-bit operand of a command and the 32-bit data of a response (R70, R71). -/
abbrev Word32 := BitVec 32

/-- The 4-bit differential audio code of R80. -/
abbrev Code := BitVec 4

end Sys2Proof
end

