-- ==== Sys2Proof/Syntax.lean ====
section
/-! DEFINITION. The command set: one constructor of `Instr` per row of the opcode table (R73, R74), with the fields
of `arg` the row names, most significant field first; the opcodes; the register names of the index map (R40). -/

namespace Sys2Proof

/-- A command of the block with its operand fields, as R74 lists them. A signed field is held as its bit pattern;
the meaning reads it as two's complement. -/
inductive Instr where
  /-- Does nothing (R176). -/
  | nop
  /-- Writes the configuration register of index `idx` (R177). -/
  | cwr (idx : BitVec 8) (val : BitVec 24)
  /-- Reads the register of index `idx` (R178). -/
  | crd (idx : BitVec 8)
  /-- Resets the whole block (R179). -/
  | srst
  /-- Starts a codec pass (R110). -/
  | arst
  /-- Narrows a 16-bit sample to 12 bits (R111). -/
  | anrw (s16 : BitVec 16)
  /-- Decodes one code (R112). -/
  | adec (code : Code)
  /-- Encodes one 12-bit sample (R113). -/
  | aenc (s12 : BitVec 12)
  /-- Pushes one code into the nibble packer (R114). -/
  | apck (code : Code)
  /-- Flushes a pending low nibble (R115). -/
  | aflush
  /-- Narrows, encodes and packs one 16-bit sample (R116). -/
  | aencs (s16 : BitVec 16)
  /-- Decodes the two codes of a code byte (R117). -/
  | adecb (byte : Byte)
  /-- Clears the resampler accumulator (R134). -/
  | rrst
  /-- Down-mixes a stereo sample frame (R132). -/
  | dmix (a b : BitVec 16)
  /-- One resampler tick (R135). -/
  | rsmp (s16 : BitVec 16)
  /-- Converts one RGB triple (R144). -/
  | pconv (r g b : BitVec 8)
  /-- Begins a raster of `w` columns and `h` rows (R145). -/
  | pbegin (w h : BitVec 12)
  /-- Converts and stores the next pixel (R147). -/
  | ppix (r g b : BitVec 8)
  /-- Ends the raster (R148). -/
  | pend
  /-- Reads one byte of the packed-pixel buffer (R149). -/
  | prd (addr : BitVec 26)
  /-- Returns a frame_voice_size (R167). -/
  | fvs (rc k : BitVec 8)
  /-- Returns the frame_size for a frame_voice_size (R168). -/
  | fsz (fvs : BitVec 24)
  /-- Returns a rate/type code (R169). -/
  | frc (rc : BitVec 8)
  /-- Returns a frame-duration field (R170). -/
  | fdur (sel : BitVec 1) (k : BitVec 8)
deriving DecidableEq, Repr

/-- The 24 opcodes of R73, by mnemonic. -/
inductive Opcode where
  | nop | cwr | crd | srst
  | arst | anrw | adec | aenc | apck | aflush | aencs | adecb
  | rrst | dmix | rsmp
  | pconv | pbegin | ppix | pend | prd
  | fvs | fsz | frc | fdur
deriving DecidableEq, Repr

/-- The 16 register names of the index map (R40). `pks` is NPH and NLO read together. -/
inductive Reg where
  | vieww | viewh | auxm | fin | fout
  | si | est | pks | acc
  | pst | pcur | plim | pbytes
  | fault | fop | farg
deriving DecidableEq, Repr

end Sys2Proof
end

