-- ==== Sys2Proof/WellFormed.lean ====
section
/-! DEFINITION. Which terms of `Instr` are commands of the block: every field has its width by its type, so only the
two register indices need a check (R90). -/

namespace Sys2Proof

/-- CWR takes an index of 0x00 to 0x04 (R74, R90). -/
abbrev Instr.cwrIndexOk (idx : BitVec 8) : Prop := idx.toNat ≤ 0x04

/-- CRD takes one of the 16 indices of the register map (R40, R90). -/
abbrev Instr.crdIndexOk (idx : BitVec 8) : Prop :=
  idx.toNat ∈ [0x00, 0x01, 0x02, 0x03, 0x04, 0x10, 0x11, 0x12, 0x13, 0x20, 0x21, 0x22, 0x23, 0x30, 0x31, 0x32]

/-- A well-formed command: its register index, where it has one, is in the map (R90). -/
def Instr.wellFormed : Instr → Bool
  | .nop => true
  | .cwr idx _ => decide (Instr.cwrIndexOk idx)
  | .crd idx => decide (Instr.crdIndexOk idx)
  | .srst => true
  | .arst => true
  | .anrw _ => true
  | .adec _ => true
  | .aenc _ => true
  | .apck _ => true
  | .aflush => true
  | .aencs _ => true
  | .adecb _ => true
  | .rrst => true
  | .dmix _ _ => true
  | .rsmp _ => true
  | .pconv _ _ _ => true
  | .pbegin _ _ => true
  | .ppix _ _ _ => true
  | .pend => true
  | .prd _ => true
  | .fvs _ _ => true
  | .fsz _ => true
  | .frc _ => true
  | .fdur _ _ => true

end Sys2Proof
end

