-- ==== Sys2Proof/Decode.lean ====
section
/-! DEFINITION. Decoding a 40-bit command word (R70, R73 to R75, R90) and encoding a command, both from the same
tables: the opcode map, the reserved operand bits, the fields of `arg`, the register index map (R40). -/

namespace Sys2Proof

/-- The opcodes in the order of R73. -/
def Opcode.all : List Opcode :=
  [.nop, .cwr, .crd, .srst, .arst, .anrw, .adec, .aenc, .apck, .aflush, .aencs, .adecb,
   .rrst, .dmix, .rsmp, .pconv, .pbegin, .ppix, .pend, .prd, .fvs, .fsz, .frc, .fdur]

/-- The 8-bit opcode of R73. -/
def Opcode.code : Opcode → BitVec 8
  | .nop => 0x00#8
  | .cwr => 0x01#8
  | .crd => 0x02#8
  | .srst => 0x03#8
  | .arst => 0x10#8
  | .anrw => 0x11#8
  | .adec => 0x12#8
  | .aenc => 0x13#8
  | .apck => 0x14#8
  | .aflush => 0x15#8
  | .aencs => 0x16#8
  | .adecb => 0x17#8
  | .rrst => 0x20#8
  | .dmix => 0x21#8
  | .rsmp => 0x22#8
  | .pconv => 0x30#8
  | .pbegin => 0x31#8
  | .ppix => 0x32#8
  | .pend => 0x33#8
  | .prd => 0x34#8
  | .fvs => 0x40#8
  | .fsz => 0x41#8
  | .frc => 0x42#8
  | .fdur => 0x43#8

/-- The opcode an 8-bit value selects; none for the 232 reserved values (R86). -/
def Opcode.ofCode (op : BitVec 8) : Option Opcode :=
  Opcode.all.find? fun o => o.code == op

/-- The operand bits that must be 0: the "reserved bits of arg" column of R74 (the low 32 bits of its mask). -/
def Opcode.reserved : Opcode → Word32
  | .nop => 0xFFFFFFFF#32
  | .cwr => 0x00000000#32
  | .crd => 0x00FFFFFF#32
  | .srst => 0xFFFFFFFF#32
  | .arst => 0xFFFFFFFF#32
  | .anrw => 0xFFFF0000#32
  | .adec => 0xFFFFFFF0#32
  | .aenc => 0xFFFFF000#32
  | .apck => 0xFFFFFFF0#32
  | .aflush => 0xFFFFFFFF#32
  | .aencs => 0xFFFF0000#32
  | .adecb => 0xFFFFFF00#32
  | .rrst => 0xFFFFFFFF#32
  | .dmix => 0x00000000#32
  | .rsmp => 0xFFFF0000#32
  | .pconv => 0xFF000000#32
  | .pbegin => 0xF000F000#32
  | .ppix => 0xFF000000#32
  | .pend => 0xFFFFFFFF#32
  | .prd => 0xFC000000#32
  | .fvs => 0xFFFF0000#32
  | .fsz => 0xFF000000#32
  | .frc => 0xFFFFFF00#32
  | .fdur => 0xFFFFFE00#32

/-- The `mask` of the opcode's row over the 40-bit command word (R74). -/
def Opcode.mask (o : Opcode) : CommandWord := 0xFF#8 ++ o.reserved

/-- The `match` of the opcode's row over the 40-bit command word (R74). -/
def Opcode.pattern (o : Opcode) : CommandWord := o.code ++ 0#32

/-- `op = CW[39:32]` (R70). -/
def CommandWord.op (w : CommandWord) : BitVec 8 := w.extractLsb' 32 8

/-- `arg = CW[31:0]` (R70). -/
def CommandWord.arg (w : CommandWord) : Word32 := w.extractLsb' 0 32

/-- `v[lo + n - 1 : lo]` of an operand (section 5 of 00_scope.md). -/
def argField (arg : Word32) (lo n : Nat) : BitVec n := arg.extractLsb' lo n

/-- The register names in the order of R40. -/
def Reg.all : List Reg :=
  [.vieww, .viewh, .auxm, .fin, .fout, .si, .est, .pks, .acc, .pst, .pcur, .plim, .pbytes, .fault, .fop, .farg]

/-- The 8-bit index of a register (R40). -/
def Reg.index : Reg → BitVec 8
  | .vieww => 0x00#8
  | .viewh => 0x01#8
  | .auxm => 0x02#8
  | .fin => 0x03#8
  | .fout => 0x04#8
  | .si => 0x10#8
  | .est => 0x11#8
  | .pks => 0x12#8
  | .acc => 0x13#8
  | .pst => 0x20#8
  | .pcur => 0x21#8
  | .plim => 0x22#8
  | .pbytes => 0x23#8
  | .fault => 0x30#8
  | .fop => 0x31#8
  | .farg => 0x32#8

/-- The register of an index; none for a reserved index (R40). -/
def Reg.ofIndex (idx : BitVec 8) : Option Reg :=
  Reg.all.find? fun r => r.index == idx

/-- The five RW registers, which CWR may name (R40): the indices 0x00 to 0x04. -/
def Reg.writable : Reg → Bool
  | .vieww => true
  | .viewh => true
  | .auxm => true
  | .fin => true
  | .fout => true
  | .si => false
  | .est => false
  | .pks => false
  | .acc => false
  | .pst => false
  | .pcur => false
  | .plim => false
  | .pbytes => false
  | .fault => false
  | .fop => false
  | .farg => false

/-- The fields of `arg` for each opcode (R74). -/
def Opcode.operands (o : Opcode) (arg : Word32) : Instr :=
  match o with
  | .nop => .nop
  | .cwr => .cwr (argField arg 24 8) (argField arg 0 24)
  | .crd => .crd (argField arg 24 8)
  | .srst => .srst
  | .arst => .arst
  | .anrw => .anrw (argField arg 0 16)
  | .adec => .adec (argField arg 0 4)
  | .aenc => .aenc (argField arg 0 12)
  | .apck => .apck (argField arg 0 4)
  | .aflush => .aflush
  | .aencs => .aencs (argField arg 0 16)
  | .adecb => .adecb (argField arg 0 8)
  | .rrst => .rrst
  | .dmix => .dmix (argField arg 16 16) (argField arg 0 16)
  | .rsmp => .rsmp (argField arg 0 16)
  | .pconv => .pconv (argField arg 16 8) (argField arg 8 8) (argField arg 0 8)
  | .pbegin => .pbegin (argField arg 16 12) (argField arg 0 12)
  | .ppix => .ppix (argField arg 16 8) (argField arg 8 8) (argField arg 0 8)
  | .pend => .pend
  | .prd => .prd (argField arg 0 26)
  | .fvs => .fvs (argField arg 8 8) (argField arg 0 8)
  | .fsz => .fsz (argField arg 0 24)
  | .frc => .frc (argField arg 0 8)
  | .fdur => .fdur (argField arg 8 1) (argField arg 0 8)

/-- The register index of a decoded command is one its opcode accepts (R90): 0x00 to 0x04 for CWR, an index of the map
for CRD. -/
def indexAccepted : Instr → Bool
  | .cwr idx _ => (Reg.ofIndex idx).any Reg.writable
  | .crd idx => (Reg.ofIndex idx).isSome
  | .nop | .srst | .arst | .anrw _ | .adec _ | .aenc _ | .apck _ | .aflush | .aencs _ | .adecb _ => true
  | .rrst | .dmix _ _ | .rsmp _ | .pconv _ _ _ | .pbegin _ _ | .ppix _ _ _ | .pend | .prd _ => true
  | .fvs _ _ | .fsz _ | .frc _ | .fdur _ _ => true

/-- Why a command word is illegal (R191), in the order of R90. -/
inductive Illegal where
  /-- The opcode is not one of the 24 (R86). -/
  | reservedOpcode
  /-- A reserved operand bit is 1 (R75). -/
  | reservedBits
  /-- The register index is reserved, or read-only for a CWR (R90). -/
  | reservedIndex
deriving DecidableEq, Repr

/-- The decoding procedure of R90, total on all 40-bit words, refusing by name. -/
def decodeOrReason (w : CommandWord) : Except Illegal Instr :=
  match Opcode.ofCode (CommandWord.op w) with
  | none => .error .reservedOpcode
  | some o =>
    if CommandWord.arg w &&& o.reserved = 0#32 then
      let i := o.operands (CommandWord.arg w)
      if indexAccepted i then .ok i else .error .reservedIndex
    else .error .reservedBits

/-- The command of a command word; none when the word is illegal (R90). -/
def decode (w : CommandWord) : Option Instr :=
  (decodeOrReason w).toOption

/-- The opcode of a command (R73). -/
def Instr.opcode : Instr → Opcode
  | .nop => .nop
  | .cwr _ _ => .cwr
  | .crd _ => .crd
  | .srst => .srst
  | .arst => .arst
  | .anrw _ => .anrw
  | .adec _ => .adec
  | .aenc _ => .aenc
  | .apck _ => .apck
  | .aflush => .aflush
  | .aencs _ => .aencs
  | .adecb _ => .adecb
  | .rrst => .rrst
  | .dmix _ _ => .dmix
  | .rsmp _ => .rsmp
  | .pconv _ _ _ => .pconv
  | .pbegin _ _ => .pbegin
  | .ppix _ _ _ => .ppix
  | .pend => .pend
  | .prd _ => .prd
  | .fvs _ _ => .fvs
  | .fsz _ => .fsz
  | .frc _ => .frc
  | .fdur _ _ => .fdur

/-- The 32-bit operand of a command: its fields at the places of R74, every other bit 0. -/
def Instr.arg : Instr → Word32
  | .nop => 0#32
  | .cwr idx val => idx ++ val
  | .crd idx => idx ++ 0#24
  | .srst => 0#32
  | .arst => 0#32
  | .anrw s16 => 0#16 ++ s16
  | .adec code => 0#28 ++ code
  | .aenc s12 => 0#20 ++ s12
  | .apck code => 0#28 ++ code
  | .aflush => 0#32
  | .aencs s16 => 0#16 ++ s16
  | .adecb byte => 0#24 ++ byte
  | .rrst => 0#32
  | .dmix a b => a ++ b
  | .rsmp s16 => 0#16 ++ s16
  | .pconv r g b => 0#8 ++ r ++ g ++ b
  | .pbegin w h => 0#4 ++ w ++ 0#4 ++ h
  | .ppix r g b => 0#8 ++ r ++ g ++ b
  | .pend => 0#32
  | .prd addr => 0#6 ++ addr
  | .fvs rc k => 0#16 ++ rc ++ k
  | .fsz v => 0#8 ++ v
  | .frc rc => 0#24 ++ rc
  | .fdur sel k => 0#23 ++ sel ++ k

/-- The command word of a command: `op ‖ arg` (R70, R74). -/
def encode (i : Instr) : CommandWord := i.opcode.code ++ i.arg

/-- The word behind an opcode-table row: the `nbits` bits of `w`, as the table numbers them; a row is one 40-bit command
word, so the number is the word itself and every higher bit must be 0. -/
def tableWord (nbits w : Nat) : Option CommandWord :=
  let v := w % 2 ^ nbits
  if v < 2 ^ 40 then some (BitVec.ofNat 40 v) else none

/-- The instruction the decoder reads from a word numbered as spec/opcode_table.json numbers it. -/
def decodeTableWord (nbits w : Nat) : Option Instr :=
  (tableWord nbits w).bind decode

end Sys2Proof
end

