-- ==== Sys2Proof/Machine/State.lean ====
section
/-! DEFINITION. The state of the block: every register of R20 and the buffer PIXBUF, and the two sides of the command
port, which are the model's own (log 2). Plain data throughout. -/

namespace Sys2Proof.Machine

/-- What would stop the machine itself. The errors of R190 do NOT: they are responses (`ErrorCode`). -/
inductive Fault where
  /-- A read of a PIXBUF byte that has no value: none before the first PBEGIN, none at or above PBYTES (R41, R55, U5).
  Raised by `performReading` alone. Safe: it stops where the spec gives no byte. PRD's own checks answer E_SEQ or
  E_PARAM first (R149), so no state raises it (log 3). -/
  | pixbufUndefined
deriving DecidableEq, Repr

/-- What the model has no meaning for. -/
inductive Refusal where
  /-- An arm of `exec` without a meaning. Raised by no arm of this model: all 24 commands have their meaning. Safe. -/
  | notModelled (mnemonic : String)
deriving DecidableEq, Repr

/-- The outcome of one step of this machine. -/
abbrev Outcome (State : Type) := Host.Outcome State Fault Refusal

/-- The error kinds of R190 that latch: status 1 to 4. -/
inductive ErrorCode where
  /-- E_ILLEGAL (R191). -/
  | illegal
  /-- E_PARAM, the source's ParameterError (R192). -/
  | param
  /-- E_FORMAT, the source's FormatMismatchError (R193). -/
  | format
  /-- E_SEQ (R194). -/
  | seq
deriving DecidableEq, Repr

/-- A response word `status ‖ data` (R71). -/
structure Response where
  status : BitVec 4
  data : Word32
deriving DecidableEq, Repr

/-- AUXM, the auxiliary-bit policy (R28, R142). -/
inductive AuxMode where
  /-- AUXM = 0. -/
  | defaultMode
  /-- AUXM = 1. -/
  | intensityMode
deriving DecidableEq, Repr

/-- PST, the raster state (R29). -/
inductive Pst where
  /-- 0: no raster has been begun since reset. -/
  | idle
  /-- 1 OPEN: a raster is being received. -/
  | opened
  /-- 2: the last raster was completed. -/
  | done
deriving DecidableEq, Repr

/-- The bytes of PIXBUF that differ from what an unlisted byte reads as, by rising address (log 1). -/
structure Memory where
  cells : List Host.Cell
deriving DecidableEq, Repr

/-- The two things the host can do to the block (R239). -/
inductive HostAction where
  /-- Issue a command word. -/
  | command (w : CommandWord)
  /-- Assert hardware reset (R220). -/
  | hardwareReset
deriving DecidableEq, Repr

/-- The state of the block (R20), and the two sides of its command port. -/
structure State where
  /-- SI, the step index (R21). -/
  si : BitVec 6
  /-- EST, the last estimate, two's complement (R22). -/
  est : BitVec 12
  /-- NPH, the nibble phase: a low nibble is held (R24). -/
  nph : Bool
  /-- NLO, the held low nibble (R24). -/
  nlo : BitVec 4
  /-- ACC, the resampler accumulator (R25, R137). -/
  acc : BitVec 25
  /-- FIN, the input frequency; 0 is unconfigured (R26). -/
  fin : BitVec 24
  /-- FOUT, the output frequency; 0 is unconfigured (R26). -/
  fout : BitVec 24
  /-- VIEWW, the declared view width; 0 is unconfigured (R27). -/
  vieww : BitVec 12
  /-- VIEWH, the declared view height; 0 is unconfigured (R27). -/
  viewh : BitVec 12
  /-- AUXM, the auxiliary-bit policy (R28). -/
  auxm : AuxMode
  /-- PST, the raster state (R29). -/
  pst : Pst
  /-- PCUR, the pixels already packed (R30). -/
  pcur : BitVec 25
  /-- PLIM, the pixels the raster supplies (R30). -/
  plim : BitVec 25
  /-- PBYTES, the length of the active part of PIXBUF (R30). -/
  pbytes : BitVec 26
  /-- PIXBUF, the packed-pixel buffer (R31, R55). -/
  pixbuf : Memory
  /-- FAULT, none for 0 (R32). -/
  fault : Option ErrorCode
  /-- FOP, the opcode of the first failing command (R32). -/
  fop : BitVec 8
  /-- FARG, the operand of the first failing command (R32). -/
  farg : Word32
  /-- The model's own: what the host does next at the command port, oldest first (R239, log 2). -/
  port : List HostAction
  /-- The model's own: every response answered so far, oldest first (R71, R238, log 2). -/
  replies : List Response
deriving DecidableEq, Repr

/-- The state after hardware reset: every register at the value of R41, nothing in PIXBUF that a read could see,
nothing issued at the port yet. -/
def State.reset : State where
  si := 0#6
  est := 0#12
  nph := false
  nlo := 0#4
  acc := 0#25
  fin := 0#24
  fout := 0#24
  vieww := 0#12
  viewh := 0#12
  auxm := .defaultMode
  pst := .idle
  pcur := 0#25
  plim := 0#25
  pbytes := 0#26
  pixbuf := ⟨[]⟩
  fault := none
  fop := 0#8
  farg := 0#32
  port := []
  replies := []

end Sys2Proof.Machine
end

