-- ==== Sys2Proof/Machine/Operands.lean ====
section
/-! DEFINITION. The operand forms: the number notation of R6 (two's complement, truncating division, clamp), the PCM
sample and code byte formats (R58, R80 to R82), and the reading of a register by its index (R40). -/

namespace Sys2Proof.Machine

/-- `sext_N`: the field read as a two's-complement integer (section 5 of 00_scope.md). -/
def sext {n : Nat} (v : BitVec n) : Int := v.toInt

/-- `zext_N`: the field read as an unsigned integer. -/
def zext {n : Nat} (v : BitVec n) : Nat := v.toNat

/-- `tc_N`: the N-bit two's-complement pattern of an integer. The spec uses it only for integers in range. -/
def tc (n : Nat) (x : Int) : BitVec n := BitVec.ofInt n x

/-- `clamp(x, lo, hi)`. -/
def clamp (x lo hi : Int) : Int := if x < lo then lo else if x > hi then hi else x

/-- `tdiv(a, b)`: integer division truncating toward zero. -/
def tdiv (a b : Int) : Int := Int.tdiv a b

/-- The 16-bit operand of PCM sample `i` of a big-endian byte stream: first byte high (R57, R58, R82). -/
def pcmOperand (first second : Byte) : BitVec 16 := first ++ second

/-- The code of the earlier sample, `byte[3:0]` (R81). -/
def lowCode (byte : Byte) : Code := byte.extractLsb' 0 4

/-- The code of the later sample, `byte[7:4]` (R81). -/
def highCode (byte : Byte) : Code := byte.extractLsb' 4 4

/-- The code byte of two codes: `(later << 4) | earlier` (R81, R104). -/
def codeByte (earlier later : Code) : Byte := later ++ earlier

end Sys2Proof.Machine
end

