-- ==== Sys2Proof/Machine/Flags.lean ====
section
/-! DEFINITION. The flag-like registers as numbers and the response bits and layouts. The block has no arithmetic
condition codes (R35): NPH, PST, AUXM and FAULT act as flags, BV and EMIT are response bits, not state. -/

namespace Sys2Proof.Machine

/-- AUXM as its register bit (R28). -/
def AuxMode.bit : AuxMode → BitVec 1
  | .defaultMode => 0#1
  | .intensityMode => 1#1

/-- PST as its 2-bit register value (R29). -/
def Pst.code : Pst → BitVec 2
  | .idle => 0#2
  | .opened => 1#2
  | .done => 2#2

/-- The number of an error (R190), the value FAULT holds (R32). -/
def ErrorCode.code : ErrorCode → BitVec 3
  | .illegal => 1#3
  | .param => 2#3
  | .format => 3#3
  | .seq => 4#3

/-- FAULT as its 3-bit register value: 0 for none (R32). -/
def faultCode : Option ErrorCode → BitVec 3
  | none => 0#3
  | some e => e.code

/-- The response of a command that completed: status 0 with its data (R71). -/
def okResponse (data : Word32) : Response := ⟨0#4, data⟩

/-- The response of a command that raised: the error's status, data 0 (R71, R196). -/
def errorResponse (e : ErrorCode) : Response := ⟨e.code.setWidth 4, 0#32⟩

/-- The response E_ABORTED: status 5, data 0 (R195). -/
def abortedResponse : Response := ⟨5#4, 0#32⟩

/-- The 36-bit response word `status ‖ data` (R71). -/
def Response.word (r : Response) : BitVec 36 := r.status ++ r.data

/-- Layout CRSP of R76: `BYTE`, 0, `BV`, `SI`, `CODE`, `tc_12(EST)`; BV is 1 exactly when a byte was completed. -/
def crsp (est : BitVec 12) (si : BitVec 6) (code : Code) (byte : Option Byte) : Word32 :=
  byte.getD 0#8 ++ 0#1 ++ BitVec.ofBool byte.isSome ++ si ++ code ++ est

/-- Layout DRSP2 of R77: 0, `SI`, `tc_12(E2)`, `tc_12(E1)`. -/
def drsp2 (e1 e2 : BitVec 12) (si : BitVec 6) : Word32 := 0#2 ++ si ++ e2 ++ e1

/-- The RSMP layout of R78: `EMIT` in bit 16 with the operand bits below it, all 0 when the sample is dropped. -/
def rsmpData (emit : Bool) (s16 : BitVec 16) : Word32 :=
  if emit then 0#15 ++ 1#1 ++ s16 else 0#32

/-- CRD data of a register: zero-extended; `tc_12(EST)` for EST; `(NPH << 4) | NLO` for PKS (R40, R178). -/
def readReg (r : Reg) (s : State) : Word32 :=
  match r with
  | .vieww => s.vieww.setWidth 32
  | .viewh => s.viewh.setWidth 32
  | .auxm => s.auxm.bit.setWidth 32
  | .fin => s.fin.setWidth 32
  | .fout => s.fout.setWidth 32
  | .si => s.si.setWidth 32
  | .est => s.est.setWidth 32
  | .pks => (BitVec.ofBool s.nph ++ s.nlo).setWidth 32
  | .acc => s.acc.setWidth 32
  | .pst => s.pst.code.setWidth 32
  | .pcur => s.pcur.setWidth 32
  | .plim => s.plim.setWidth 32
  | .pbytes => s.pbytes.setWidth 32
  | .fault => (faultCode s.fault).setWidth 32
  | .fop => s.fop.setWidth 32
  | .farg => s.farg

end Sys2Proof.Machine
end

