-- ==== Sys2Proof/Machine/Ops.lean ====
section
/-! DEFINITION. The named operations every meaning is written over: PIXBUF accesses (R55, R56), register writes, the
response, raising an error (what the block has in place of a trap entry, R196, R203), the refusal of a latched block
(R195), reset (what it has in place of a trap return, R179, R204), and the end of a command (R197). -/

namespace Sys2Proof.Machine

/-! ## PIXBUF -/

/-- What a byte of the active part with no entry reads as: the 0x00 that PBEGIN stored there (R55, log 1). -/
def Memory.unlisted : Byte := 0x00#8

/-- The canonical form: addresses strictly rising, no entry equal to what an unlisted byte reads as. -/
abbrev Memory.wf (m : Memory) : Prop :=
  m.cells.Pairwise (fun c d => c.1 < d.1) ∧ ∀ c ∈ m.cells, c.2 ≠ Memory.unlisted

/-- The byte stored at an address of a list of cells. -/
def readCells : List Host.Cell → Nat → Byte
  | [], _ => Memory.unlisted
  | c :: rest, a => if c.1 = a then c.2 else readCells rest a

/-- Stores a byte into a list of cells, keeping the canonical form. -/
def writeCells : List Host.Cell → Nat → Byte → List Host.Cell
  | [], a, b => if b = Memory.unlisted then [] else [(a, b)]
  | c :: rest, a, b =>
    if c.1 < a then c :: writeCells rest a b
    else
      let tail := if c.1 = a then rest else c :: rest
      if b = Memory.unlisted then tail else (a, b) :: tail

/-- The byte of the buffer memory at an address. -/
def Memory.read (m : Memory) (a : Nat) : Byte := readCells m.cells a

/-- Stores one byte. -/
def Memory.write (m : Memory) (a : Nat) (b : Byte) : Memory := ⟨writeCells m.cells a b⟩

/-- `MemWrite(PIXBUF, addr, 2, v)`: most significant byte first (R56). -/
def Memory.write16 (m : Memory) (a : Nat) (v : BitVec 16) : Memory :=
  (m.write a (v.extractLsb' 8 8)).write (a + 1) (v.extractLsb' 0 8)

/-- PBEGIN's clear of the whole active part to 0x00 (R55, R145). What lay at or above it has no content either way. -/
def Memory.cleared : Memory := ⟨[]⟩

/-- `MemRead(PIXBUF, addr, 1)`: the byte of the active part once a raster has been begun, and no value otherwise
(R41, R55, R56). -/
def State.memRead (s : State) (a : Nat) : Option Byte :=
  if s.pst = .idle ∨ s.pbytes.toNat ≤ a then none else some (s.pixbuf.read a)

/-! ## Register writes -/

/-- `(EST, SI) <- (est, si)` (log 14). -/
def State.setCodec (s : State) (est : Int) (si : Int) : State :=
  { s with est := tc 12 est, si := BitVec.ofInt 6 si }

/-- `(NPH, NLO) <- p`. -/
def State.setPacker (s : State) (p : Bool × Code) : State :=
  { s with nph := p.1, nlo := p.2 }

/-- `ACC <- acc`. -/
def State.setAcc (s : State) (acc : Nat) : State :=
  { s with acc := BitVec.ofNat 25 acc }

/-- PBEGIN's writes (R145): PBYTES from the view, the buffer cleared, PLIM from the raster, PCUR 0, PST OPEN. -/
def State.openRaster (s : State) (w h : BitVec 12) : State :=
  { s with
    pbytes := BitVec.ofNat 26 (2 * s.vieww.toNat * s.viewh.toNat)
    pixbuf := Memory.cleared
    plim := BitVec.ofNat 25 (w.toNat * h.toNat)
    pcur := 0#25
    pst := .opened }

/-- PPIX's writes (R147): the packed colour at byte address `2*PCUR`, then `PCUR <- PCUR + 1`. -/
def State.storePixel (s : State) (v : BitVec 16) : State :=
  { s with
    pixbuf := s.pixbuf.write16 (2 * s.pcur.toNat) v
    pcur := s.pcur + 1#25 }

/-- PEND's write (R148). -/
def State.closeRaster (s : State) : State :=
  { s with pst := .done }

/-- The legal CWR values of a register under the view limits (R4, R40, R177). -/
def cfgLegal (L : ViewLimits) (r : Reg) (val : BitVec 24) : Bool :=
  match r with
  | .vieww => decide (1 ≤ val.toNat ∧ val.toNat ≤ L.maxW)
  | .viewh => decide (1 ≤ val.toNat ∧ val.toNat ≤ L.maxH)
  | .auxm => decide (val.toNat ≤ 1)
  | .fin => decide (1 ≤ val.toNat)
  | .fout => decide (1 ≤ val.toNat)
  | .si | .est | .pks | .acc | .pst | .pcur | .plim | .pbytes | .fault | .fop | .farg => false

/-- `cfg[idx] <- val`; a write of FIN or FOUT also clears ACC (R177). Only the five RW registers change. -/
def State.writeCfg (s : State) (r : Reg) (val : BitVec 24) : State :=
  match r with
  | .vieww => { s with vieww := val.setWidth 12 }
  | .viewh => { s with viewh := val.setWidth 12 }
  | .auxm => { s with auxm := if val = 0#24 then .defaultMode else .intensityMode }
  | .fin => { s with fin := val, acc := 0#25 }
  | .fout => { s with fout := val, acc := 0#25 }
  | .si | .est | .pks | .acc | .pst | .pcur | .plim | .pbytes | .fault | .fop | .farg => s

/-! ## Responses, errors, reset -/

/-- Gives the host a response (R71). -/
def State.answer (s : State) (r : Response) : State :=
  { s with replies := s.replies ++ [r] }

/-- The latch write of R196 (2): only the first error since reset is recorded. -/
def State.latch (s : State) (e : ErrorCode) (w : CommandWord) : State :=
  match s.fault with
  | none => { s with fault := some e, fop := CommandWord.op w, farg := CommandWord.arg w }
  | some _ => s

/-- `raise <Error>(code)` and the illegal outcome of decoding (R196, `fail` of R197): nothing but the latch changes,
the response is the error's status with data 0. This is what stands in for taking an exception (R203). -/
def State.fail (s : State) (e : ErrorCode) (w : CommandWord) : State :=
  (s.latch e w).answer (errorResponse e)

/-- E_ABORTED: a response and no other effect (R195). -/
def State.abort (s : State) : State := s.answer abortedResponse

/-- Every register at its reset value, the content of PIXBUF unspecified (R41, R179). The port and the responses already
given are the host's and stay. SRST and hardware reset both do this; it is what stands in for a trap return (R204). -/
def State.resetBlock (s : State) : State :=
  { State.reset with port := s.port, replies := s.replies }

/-- R197 (1): a latched block refuses every opcode but NOP, CRD and SRST. The test looks at the opcode only. -/
def State.refusesOp (s : State) (op : BitVec 8) : Bool :=
  s.fault.isSome && !(op == 0x00#8 || op == 0x02#8 || op == 0x03#8)

/-! ## The end of a command -/

/-- What a command's rule ends in: an error it raises, or a state and the data it responds with. -/
abbrev RuleResult := Except ErrorCode (State × Word32)

/-- R197 (3): a rule that raises leaves the state it started from and fails; one that responds answers status 0. -/
def State.finish (s : State) (w : CommandWord) : RuleResult → State
  | .error e => s.fail e w
  | .ok (t, data) => t.answer (okResponse data)

/-- The whole behaviour of a decoded command (R197): refused while the latch is set, else its rule and its end. -/
def perform (i : Instr) (rule : State → RuleResult) (s : State) : Outcome State :=
  .next (if s.refusesOp i.opcode.code then s.abort else s.finish (encode i) (rule s))

/-- As `perform`, for the one command that reads PIXBUF: its rule ends in an error or in the byte read, which the
response returns in `data[7:0]` (R79); a byte without a value stops the machine (R41). -/
def performReading (i : Instr) (rule : State → Except ErrorCode (Option Byte)) (s : State) : Outcome State :=
  if s.refusesOp i.opcode.code then .next s.abort
  else match rule s with
    | .error e => .next (s.fail e (encode i))
    | .ok none => .fault .pixbufUndefined
    | .ok (some b) => .next (s.answer (okResponse (b.setWidth 32)))

end Sys2Proof.Machine
end

