-- ==== Sys2Proof/Machine/Codec.lean ====
section
/-! DEFINITION. The ADPCM unit's codec and nibble packer (40_adpcm_codec.md): the functions of R100 to R106 and the
commands ARST, ANRW, ADEC, AENC, APCK, AFLUSH, AENCS, ADECB. The functions, the steps on the registers and the rules of the
four commands that read the tables take them as an argument (R3, D8); the commands themselves pass the block's. -/

namespace Sys2Proof.Machine

/-- The block's codec tables: the defaults (R52, R53, log 4). -/
abbrev codecTables : CodecTables := Config.codec

/-! ## Functions -/

/-- `STEP_SIZE[si]`. Every reachable index is in 0..48 (R51); an SI that is never held (R21) reads a free value (log 7). -/
def stepSize (T : CodecTables) (si : Nat) : Nat := T.stepSize.getD si (Config.stepSizeOutside si)

/-- `STEP_ADJUST[code]`. -/
def stepAdjust (T : CodecTables) (code : Code) : Int := T.stepAdjust.getD code.toNat 0

/-- The magnitude of R100: `ss>>3`, plus `ss>>2`, `ss>>1`, `ss` for the code bits 0, 1, 2, each truncated separately. -/
def deltaMagnitude (code : Code) (ss : Nat) : Nat :=
  (ss >>> 3)
    + (if code.getLsbD 0 then ss >>> 2 else 0)
    + (if code.getLsbD 1 then ss >>> 1 else 0)
    + (if code.getLsbD 2 then ss else 0)

/-- `adpcm_delta(code, ss)` (R100): the magnitude, negated when bit 3 is set. -/
def adpcmDelta (code : Code) (ss : Nat) : Int :=
  if code.getLsbD 3 then -(deltaMagnitude code ss : Int) else (deltaMagnitude code ss : Int)

/-- `adpcm_decode(code, si, est) = (est', si')` (R101). The step size is the one of the incoming index. -/
def adpcmDecode (T : CodecTables) (code : Code) (si : Nat) (est : Int) : Int × Int :=
  (clamp (est + adpcmDelta code (stepSize T si)) (-2048) 2047,
   clamp ((si : Int) + stepAdjust T code) 0 48)

/-- The code of R102 for the difference `d` at step size `ss`: the sign, then the greedy bit-planes. -/
def quantise (d : Int) (ss : Nat) : Code :=
  let d0 := d.natAbs
  let b2 := decide (ss ≤ d0)
  let d1 := if b2 then d0 - ss else d0
  let b1 := decide (ss >>> 1 ≤ d1)
  let d2 := if b1 then d1 - (ss >>> 1) else d1
  let b0 := decide (ss >>> 2 ≤ d2)
  BitVec.ofBool (decide (d < 0)) ++ BitVec.ofBool b2 ++ BitVec.ofBool b1 ++ BitVec.ofBool b0

/-- `adpcm_encode(sample, est, si) = (code, est', si')` (R102): the next state comes from `adpcmDecode` and from nothing
else (R107). -/
def adpcmEncode (T : CodecTables) (sample est : Int) (si : Nat) : Code × Int × Int :=
  let code := quantise (sample - est) (stepSize T si)
  (code, adpcmDecode T code si est)

/-- `narrow(s16)` (R103): division by 16 truncating toward zero. -/
def narrow (s16 : Int) : Int := tdiv s16 16

/-- `pack_step((nph, nlo), code)` (R104): the new packer state and the byte, when the code completes one. -/
def packStep (p : Bool × Code) (code : Code) : (Bool × Code) × Option Byte :=
  if p.1 then ((false, 0#4), some (codeByte p.2 code)) else ((true, code), none)

/-- `pack_flush((nph, nlo))` (R106). -/
def packFlush (p : Bool × Code) : (Bool × Code) × Option Byte :=
  if p.1 then ((false, 0#4), some (codeByte p.2 0#4)) else (p, none)

/-! ## Steps on the registers -/

/-- The packer state of the registers. -/
def State.packer (s : State) : Bool × Code := (s.nph, s.nlo)

/-- `(EST, SI) <- adpcm_decode(code, SI, EST)`. -/
def State.decodeCode (T : CodecTables) (s : State) (code : Code) : State :=
  let r := adpcmDecode T code (zext s.si) (sext s.est)
  s.setCodec r.1 r.2

/-- The code `adpcm_encode` derives for a 12-bit sample from the registers. -/
def State.codeFor (T : CodecTables) (s : State) (sample : Int) : Code :=
  (adpcmEncode T sample (sext s.est) (zext s.si)).1

/-- `(EST, SI) <-` the state `adpcm_encode` returns. -/
def State.encodeSample (T : CodecTables) (s : State) (sample : Int) : State :=
  let r := adpcmEncode T sample (sext s.est) (zext s.si)
  s.setCodec r.2.1 r.2.2

/-- The CRSP response of the registers after a command (R76). -/
def State.crsp (s : State) (code : Code) (byte : Option Byte) : Word32 :=
  Sys2Proof.Machine.crsp s.est s.si code byte

/-! ## Commands -/

/-- The rule of ARST: `(SI, EST)` to (0,0), the packer emptied (R110). -/
def ruleArst (s : State) : RuleResult :=
  let t := (s.setCodec 0 0).setPacker (false, 0#4)
  .ok (t, t.crsp 0#4 none)

/-- ARST (R110). -/
def execArst (s : State) : Outcome State :=
  perform .arst ruleArst s

/-- The rule of ANRW: a pure function of its operand (R111). -/
def ruleAnrw (s16 : BitVec 16) (s : State) : RuleResult :=
  .ok (s, (tc 12 (narrow (sext s16))).setWidth 32)

/-- ANRW (R111). -/
def execAnrw (s16 : BitVec 16) (s : State) : Outcome State :=
  perform (.anrw s16) (ruleAnrw s16) s

/-- The rule of ADEC: decodes one code and advances the codec state (R112). -/
def ruleAdec (T : CodecTables) (code : Code) (s : State) : RuleResult :=
  let t := s.decodeCode T code
  .ok (t, t.crsp code none)

/-- ADEC (R112). -/
def execAdec (code : Code) (s : State) : Outcome State :=
  perform (.adec code) (ruleAdec codecTables code) s

/-- The rule of AENC: encodes one 12-bit sample, advancing the state through the decoder (R113). -/
def ruleAenc (T : CodecTables) (s12 : BitVec 12) (s : State) : RuleResult :=
  let t := s.encodeSample T (sext s12)
  .ok (t, t.crsp (s.codeFor T (sext s12)) none)

/-- AENC (R113). -/
def execAenc (s12 : BitVec 12) (s : State) : Outcome State :=
  perform (.aenc s12) (ruleAenc codecTables s12) s

/-- The rule of APCK: pushes one code into the packer (R114). -/
def ruleApck (code : Code) (s : State) : RuleResult :=
  let p := packStep s.packer code
  let t := s.setPacker p.1
  .ok (t, t.crsp code p.2)

/-- APCK (R114). -/
def execApck (code : Code) (s : State) : Outcome State :=
  perform (.apck code) (ruleApck code) s

/-- The rule of AFLUSH: outputs a pending low nibble as a byte with high nibble 0 (R115). -/
def ruleAflush (s : State) : RuleResult :=
  let p := packFlush s.packer
  let t := s.setPacker p.1
  .ok (t, t.crsp 0#4 p.2)

/-- AFLUSH (R115). -/
def execAflush (s : State) : Outcome State :=
  perform .aflush ruleAflush s

/-- The rule of AENCS: narrow, encode, pack (R116). -/
def ruleAencs (T : CodecTables) (s16 : BitVec 16) (s : State) : RuleResult :=
  let s12 := narrow (sext s16)
  let code := s.codeFor T s12
  let p := packStep s.packer code
  let t := (s.encodeSample T s12).setPacker p.1
  .ok (t, t.crsp code p.2)

/-- AENCS (R116). -/
def execAencs (s16 : BitVec 16) (s : State) : Outcome State :=
  perform (.aencs s16) (ruleAencs codecTables s16) s

/-- The rule of ADECB: decodes the two codes of a byte, low nibble first (R117). -/
def ruleAdecb (T : CodecTables) (byte : Byte) (s : State) : RuleResult :=
  let t1 := s.decodeCode T (lowCode byte)
  let t2 := t1.decodeCode T (highCode byte)
  .ok (t2, drsp2 t1.est t2.est t2.si)

/-- ADECB (R117). -/
def execAdecb (byte : Byte) (s : State) : Outcome State :=
  perform (.adecb byte) (ruleAdecb codecTables byte) s

end Sys2Proof.Machine
end

