-- ==== Sys2Proof/Machine/Control.lean ====
section
/-! DEFINITION. The control commands NOP, CWR, CRD and SRST (44_control.md). CWR's rule takes the view limits as an
argument (R4). -/

namespace Sys2Proof.Machine

/-- The block's view limits: the defaults (R4, log 5). -/
abbrev viewLimits : ViewLimits := ⟨Config.maxViewW, Config.maxViewH⟩

/-- The rule of NOP: `respond(0)` (R176). -/
def ruleNop (s : State) : RuleResult := .ok (s, 0#32)

/-- NOP (R176). -/
def execNop (s : State) : Outcome State :=
  perform .nop ruleNop s

/-- The rule of CWR: illegal index, illegal value, write (R177, log 13). -/
def ruleCwr (L : ViewLimits) (idx : BitVec 8) (val : BitVec 24) (s : State) : RuleResult :=
  match Reg.ofIndex idx with
  | none => .error .illegal
  | some r =>
    if r.writable then
      if cfgLegal L r val then .ok (s.writeCfg r val, val.setWidth 32) else .error .param
    else .error .illegal

/-- CWR (R177). -/
def execCwr (idx : BitVec 8) (val : BitVec 24) (s : State) : Outcome State :=
  perform (.cwr idx val) (ruleCwr viewLimits idx val) s

/-- The rule of CRD: illegal index, or the register in its CRD layout (R178, log 13). -/
def ruleCrd (idx : BitVec 8) (s : State) : RuleResult :=
  match Reg.ofIndex idx with
  | none => .error .illegal
  | some r => .ok (s, readReg r s)

/-- CRD (R178). -/
def execCrd (idx : BitVec 8) (s : State) : Outcome State :=
  perform (.crd idx) (ruleCrd idx) s

/-- The rule of SRST: every register takes its reset value (R179). -/
def ruleSrst (s : State) : RuleResult := .ok (s.resetBlock, 0#32)

/-- SRST (R179). -/
def execSrst (s : State) : Outcome State :=
  perform .srst ruleSrst s

end Sys2Proof.Machine
end

