-- ==== Sys2Proof/Machine/Pixel.lean ====
section
/-! DEFINITION. The pixel unit (42_pixel_packer.md): the colour conversion of R141 and R142 and the commands PCONV,
PBEGIN, PPIX, PEND, PRD. -/

namespace Sys2Proof.Machine

/-- The upper 15 bits of a packed colour: the top five bits of green, red and blue (R84, R141). -/
def colorField (r g b : BitVec 8) : BitVec 15 :=
  g.extractLsb' 3 5 ++ r.extractLsb' 3 5 ++ b.extractLsb' 3 5

/-- The auxiliary bit of R142. In default mode it tests the PACKED value (90_conflicts.md C2). -/
def auxBit (r g b : BitVec 8) (auxm : AuxMode) : BitVec 1 :=
  match auxm with
  | .intensityMode => BitVec.ofBool (decide ((g &&& 7#8).toNat ≥ 4))
  | .defaultMode => BitVec.ofBool (decide (colorField r g b ≠ 0#15))

/-- `pack_color(r, g, b, auxm)` (R141). -/
def packColor (r g b : BitVec 8) (auxm : AuxMode) : BitVec 16 :=
  colorField r g b ++ auxBit r g b auxm

/-- The rule of PCONV: a pure function of its operand and AUXM (R144). -/
def rulePconv (r g b : BitVec 8) (s : State) : RuleResult :=
  .ok (s, (packColor r g b s.auxm).setWidth 32)

/-- PCONV (R144). -/
def execPconv (r g b : BitVec 8) (s : State) : Outcome State :=
  perform (.pconv r g b) (rulePconv r g b) s

/-- The rule of PBEGIN: its four checks in order, then the raster is opened (R145, R151, R198). -/
def rulePbegin (w h : BitVec 12) (s : State) : RuleResult :=
  if s.pst = .opened then .error .seq
  else if s.vieww = 0#12 ∨ s.viewh = 0#12 then .error .param
  else if w ≠ s.vieww then .error .format
  else if h.toNat > s.viewh.toNat then .error .param
  else
    let t := s.openRaster w h
    .ok (t, t.pbytes.setWidth 32)

/-- PBEGIN (R145). -/
def execPbegin (w h : BitVec 12) (s : State) : Outcome State :=
  perform (.pbegin w h) (rulePbegin w h) s

/-- The rule of PPIX (R147). -/
def rulePpix (r g b : BitVec 8) (s : State) : RuleResult :=
  if s.pst ≠ .opened then .error .seq
  else if s.pcur.toNat ≥ s.plim.toNat then .error .seq
  else
    let v := packColor r g b s.auxm
    .ok (s.storePixel v, v.setWidth 32)

/-- PPIX (R147). -/
def execPpix (r g b : BitVec 8) (s : State) : Outcome State :=
  perform (.ppix r g b) (rulePpix r g b) s

/-- The rule of PEND (R148). -/
def rulePend (s : State) : RuleResult :=
  if s.pst ≠ .opened then .error .seq
  else if s.pcur ≠ s.plim then .error .seq
  else .ok (s.closeRaster, s.pcur.setWidth 32)

/-- PEND (R148). -/
def execPend (s : State) : Outcome State :=
  perform .pend rulePend s

/-- The rule of PRD: E_SEQ before the first raster, E_PARAM outside the active part, else the byte (R149). -/
def rulePrd (addr : BitVec 26) (s : State) : Except ErrorCode (Option Byte) :=
  if s.pst = .idle then .error .seq
  else if addr.toNat ≥ s.pbytes.toNat then .error .param
  else .ok (s.memRead addr.toNat)

/-- PRD (R149). -/
def execPrd (addr : BitVec 26) (s : State) : Outcome State :=
  performReading (.prd addr) (rulePrd addr) s

end Sys2Proof.Machine
end

