-- ==== Sys2Proof/Machine/Resampler.lean ====
section
/-! DEFINITION. The down-mix and the pulse-accumulator resampler (41_resampler.md): RRST, DMIX, RSMP. -/

namespace Sys2Proof.Machine

/-- `downmix(a, b) = tdiv(a + b, 2)`, the sum exact (R131). -/
def downmix (a b : Int) : Int := tdiv (a + b) 2

/-- `resample_step(acc, fin, fout) = (acc', emit)`: one test per tick (R133). -/
def resampleStep (acc fin fout : Nat) : Nat × Bool :=
  if acc + fout ≥ fin then (acc + fout - fin, true) else (acc + fout, false)

/-- The rule of RRST: `ACC <- 0` (R134). -/
def ruleRrst (s : State) : RuleResult := .ok (s.setAcc 0, 0#32)

/-- RRST (R134). -/
def execRrst (s : State) : Outcome State :=
  perform .rrst ruleRrst s

/-- The rule of DMIX: a pure function of its operands (R132). -/
def ruleDmix (a b : BitVec 16) (s : State) : RuleResult :=
  .ok (s, (tc 16 (downmix (sext a) (sext b))).setWidth 32)

/-- DMIX (R132). -/
def execDmix (a b : BitVec 16) (s : State) : Outcome State :=
  perform (.dmix a b) (ruleDmix a b) s

/-- The rule of RSMP: the three E_PARAM conditions, then one tick (R135). -/
def ruleRsmp (s16 : BitVec 16) (s : State) : RuleResult :=
  if s.fin = 0#24 ∨ s.fout = 0#24 ∨ s.fout.toNat > s.fin.toNat then .error .param
  else
    let r := resampleStep (zext s.acc) (zext s.fin) (zext s.fout)
    .ok (s.setAcc r.1, rsmpData r.2 s16)

/-- RSMP (R135). -/
def execRsmp (s16 : BitVec 16) (s : State) : Outcome State :=
  perform (.rsmp s16) (ruleRsmp s16) s

end Sys2Proof.Machine
end

