-- ==== Sys2Proof/Machine/Timing.lean ====
section
/-! DEFINITION. The frame timing unit (43_frame_timing.md): FVS, FSZ, FRC, FDUR. It holds no state. The functions take
the tables as an argument (R5). -/

namespace Sys2Proof.Machine

/-- `fvs_fallback(rc, k)` (R162): rounded down. -/
def fvsFallback (T : TimingTables) (rc k : Nat) : Nat :=
  T.byterate rc * T.fpsDen k / T.fpsNum k

/-- `fvs(rc, k)` (R161): the calibrated entry where there is one, else the fallback. -/
def fvs (T : TimingTables) (rc k : Nat) : Nat :=
  match T.cal rc k with
  | some v => v
  | none => fvsFallback T rc k

/-- `roundup1024(x)` (R164). -/
def roundup1024 (x : Nat) : Nat := 1024 * ((x + 1023) / 1024)

/-- `frame_size(ppb, v)` (R165). -/
def frameSize (ppb v : Nat) : Nat := roundup1024 (16 + ppb + 2 + v)

/-- The pixel payload byte count of the configured view (R166). -/
def State.pixelPayloadBytes (s : State) : Nat := 2 * s.vieww.toNat * s.viewh.toNat

/-- The block's frame timing tables. -/
abbrev timing : TimingTables := Config.timing.tables

/-- The rule of FVS (R167). -/
def ruleFvs (T : TimingTables) (rc k : BitVec 8) (s : State) : RuleResult :=
  if rc.toNat ≥ T.nrc ∨ k.toNat ≥ T.nfps then .error .param
  else .ok (s, BitVec.ofNat 32 (fvs T rc.toNat k.toNat))

/-- FVS (R167). -/
def execFvs (rc k : BitVec 8) (s : State) : Outcome State :=
  perform (.fvs rc k) (ruleFvs timing rc k) s

/-- The rule of FSZ (R168). -/
def ruleFsz (v : BitVec 24) (s : State) : RuleResult :=
  if s.vieww = 0#12 ∨ s.viewh = 0#12 then .error .param
  else .ok (s, BitVec.ofNat 32 (frameSize s.pixelPayloadBytes v.toNat))

/-- FSZ (R168). -/
def execFsz (v : BitVec 24) (s : State) : Outcome State :=
  perform (.fsz v) (ruleFsz v) s

/-- The rule of FRC (R169). -/
def ruleFrc (T : TimingTables) (rc : BitVec 8) (s : State) : RuleResult :=
  if rc.toNat ≥ T.nrc then .error .param
  else .ok (s, T.ratecode rc.toNat)

/-- FRC (R169). -/
def execFrc (rc : BitVec 8) (s : State) : Outcome State :=
  perform (.frc rc) (ruleFrc timing rc) s

/-- The rule of FDUR (R170). -/
def ruleFdur (T : TimingTables) (sel : BitVec 1) (k : BitVec 8) (s : State) : RuleResult :=
  if k.toNat ≥ T.nfps then .error .param
  else .ok (s, if sel = 0#1 then T.fdurA k.toNat else T.fdurB k.toNat)

/-- FDUR (R170). -/
def execFdur (sel : BitVec 1) (k : BitVec 8) (s : State) : Outcome State :=
  perform (.fdur sel k) (ruleFdur timing sel k) s

end Sys2Proof.Machine
end

