-- ==== Sys2Proof/Machine/Dispatch.lean ====
section
/-! DEFINITION. One arm per command: a direct call of its meaning. -/

namespace Sys2Proof.Machine

/-- The whole behaviour of a decoded command, the latch test included (R197). -/
def exec (i : Instr) (s : State) : Host.Outcome State Fault Refusal :=
  match i with
  | .nop => Sys2Proof.Machine.execNop s
  | .cwr idx val => Sys2Proof.Machine.execCwr idx val s
  | .crd idx => Sys2Proof.Machine.execCrd idx s
  | .srst => Sys2Proof.Machine.execSrst s
  | .arst => Sys2Proof.Machine.execArst s
  | .anrw s16 => Sys2Proof.Machine.execAnrw s16 s
  | .adec code => Sys2Proof.Machine.execAdec code s
  | .aenc s12 => Sys2Proof.Machine.execAenc s12 s
  | .apck code => Sys2Proof.Machine.execApck code s
  | .aflush => Sys2Proof.Machine.execAflush s
  | .aencs s16 => Sys2Proof.Machine.execAencs s16 s
  | .adecb byte => Sys2Proof.Machine.execAdecb byte s
  | .rrst => Sys2Proof.Machine.execRrst s
  | .dmix a b => Sys2Proof.Machine.execDmix a b s
  | .rsmp s16 => Sys2Proof.Machine.execRsmp s16 s
  | .pconv r g b => Sys2Proof.Machine.execPconv r g b s
  | .pbegin w h => Sys2Proof.Machine.execPbegin w h s
  | .ppix r g b => Sys2Proof.Machine.execPpix r g b s
  | .pend => Sys2Proof.Machine.execPend s
  | .prd addr => Sys2Proof.Machine.execPrd addr s
  | .fvs rc k => Sys2Proof.Machine.execFvs rc k s
  | .fsz v => Sys2Proof.Machine.execFsz v s
  | .frc rc => Sys2Proof.Machine.execFrc rc s
  | .fdur sel k => Sys2Proof.Machine.execFdur sel k s

end Sys2Proof.Machine
end

