-- ==== Sys2Proof/Machine/Accept.lean ====
section
/-! DEFINITION. The acceptance procedure of R197 for one command word, and the host's other action, hardware reset. -/

namespace Sys2Proof.Machine

/-- The host's next action and the state with it taken from the port; none when the host issues nothing (R239). -/
def takeAction (s : State) : Option (HostAction × State) :=
  match s.port with
  | [] => none
  | a :: rest => some (a, { s with port := rest })

/-- `accept(op, arg)` of R197: the latch test on the opcode alone, then decoding, then the command
(log 12). -/
def accept (w : CommandWord) (s : State) : Outcome State :=
  if s.refusesOp (CommandWord.op w) then .next s.abort
  else match decode w with
    | none => .next (s.fail .illegal w)
    | some i => exec i s

/-- What an action of the host does (R239): a command word is accepted; hardware reset resets the block and is given no
response (R220, log 11). -/
def perAction (a : HostAction) (s : State) : Outcome State :=
  match a with
  | .command w => accept w s
  | .hardwareReset => .next s.resetBlock

/-- The port with a command word put in front, to be issued next. -/
def issueNext (w : CommandWord) (s : State) : State :=
  { s with port := .command w :: s.port }

end Sys2Proof.Machine
end

