-- ==== Sys2Proof/Machine/Step.lean ====
section
/-! DEFINITION. One step: the host's next action at the port (R238, R239). -/

namespace Sys2Proof.Machine

/-- One step of the block. With nothing issued at the port the block stays as it is (log 8). -/
def step (s : State) : Host.Outcome State Fault Refusal :=
  match takeAction s with
  | none => .next s
  | some (a, t) => perAction a t

/-- `s` with the opcode-table word `w` issued next at the command port (log 9). A number that is no 40-bit word leaves
`s` as it is. -/
def State.withFetchWord (s : State) (nbits w : Nat) : State :=
  match tableWord nbits w with
  | none => s
  | some cw => issueNext cw s

end Sys2Proof.Machine
end

