-- ==== Sys2Proof/Machine/Parameters.lean ====
section
/-! DEFINITION. The commands of a block built with any parameters (section 4 of 00_scope.md: every parameter is an argument
of the model). `exec` is the block built with `Parameters.block`; Laws/Exec.lean proves it. -/

namespace Sys2Proof

/-- The parameters of the block `exec` runs: the defaults of R52, R53 and R4, and the open frame timing tables of R54
(logs 4, 5 and 6). -/
abbrev Parameters.block : Parameters := ⟨Machine.codecTables, Machine.viewLimits, Machine.timing⟩

namespace Machine

/-- A command as a block built with the parameters `P` executes it. Eight commands read a parameter (R51, R177); the
others are the same in every block. -/
def execWith (P : Parameters) (i : Instr) (s : State) : Outcome State :=
  match i with
  | .cwr idx val => perform i (ruleCwr P.view idx val) s
  | .adec code => perform i (ruleAdec P.codec code) s
  | .aenc s12 => perform i (ruleAenc P.codec s12) s
  | .aencs s16 => perform i (ruleAencs P.codec s16) s
  | .adecb byte => perform i (ruleAdecb P.codec byte) s
  | .fvs rc k => perform i (ruleFvs P.timing rc k) s
  | .frc rc => perform i (ruleFrc P.timing rc) s
  | .fdur sel k => perform i (ruleFdur P.timing sel k) s
  | .nop | .crd _ | .srst | .arst | .anrw _ | .apck _ | .aflush => exec i s
  | .rrst | .dmix _ _ | .rsmp _ | .pconv _ _ _ | .pbegin _ _ | .ppix _ _ _ | .pend | .prd _ | .fsz _ => exec i s

end Machine

end Sys2Proof
end

