-- ==== Sys2Proof/Machine/Streams.lean ====
section
/-! DEFINITION. The whole-stream functions (R105, R118, R119, R136, R150), the four macros whose commands compute them
(R89), what the host collects from their responses, and the host's assembly of samples (R58, R59). The machine itself
uses none of this: it is the spec's own account of what a sequence of commands amounts to. -/

namespace Sys2Proof.Machine

/-! ## Functions on whole sequences -/

/-- The 16-bit operands of a big-endian PCM byte stream; a trailing single byte forms no sample (R58, R59). -/
def pcmOperands : List Byte → List (BitVec 16)
  | b0 :: b1 :: rest => pcmOperand b0 b1 :: pcmOperands rest
  | [_] => []
  | [] => []

/-- `pack_stream` (R105). -/
def packStream : List Code → List Byte
  | c0 :: c1 :: rest => codeByte c0 c1 :: packStream rest
  | [c] => [codeByte c 0#4]
  | [] => []

/-- The first `n` codes of a code byte stream, low nibble first (R81, R119). -/
def unpackCodes (bytes : List Byte) (n : Nat) : List Code :=
  (bytes.flatMap fun b => [lowCode b, highCode b]).take n

/-- The encoder threaded over 12-bit samples from a state `(est, si)`: the code and the estimate of each sample, and
the final state (R107, R118). -/
def encodeSamples (T : CodecTables) : List Int → Int × Int → List (Code × Int) × (Int × Int)
  | [], st => ([], st)
  | x :: xs, st =>
    let r := adpcmEncode T x st.1 st.2.toNat
    let q := encodeSamples T xs r.2
    ((r.1, r.2.1) :: q.1, q.2)

/-- The encoder's codes, estimates and final state for 16-bit samples, from (0, 0) (R118). -/
def encodePass (T : CodecTables) (xs : List (BitVec 16)) : List (Code × Int) × (Int × Int) :=
  encodeSamples T (xs.map fun x => narrow (sext x)) (0, 0)

/-- `encode_stream` (R118): the bytes and the final state `(est, si)`. -/
def encodeStream (T : CodecTables) (xs : List (BitVec 16)) : List Byte × (Int × Int) :=
  let q := encodePass T xs
  (packStream (q.1.map Prod.fst), q.2)

/-- The decoder threaded over codes from a state `(est, si)`: the estimates and the final state (R119). -/
def decodeFrom (T : CodecTables) : List Code → Int × Int → List Int × (Int × Int)
  | [], st => ([], st)
  | c :: cs, st =>
    let r := adpcmDecode T c st.2.toNat st.1
    let q := decodeFrom T cs r
    (r.1 :: q.1, q.2)

/-- `decode_stream` (R119): the estimates and the final state, from (0, 0). -/
def decodeStream (T : CodecTables) (bytes : List Byte) (n : Nat) : List Int × (Int × Int) :=
  decodeFrom T (unpackCodes bytes n) (0, 0)

/-- The resampler threaded over a stream from an accumulator: the samples kept and the final accumulator (R136). -/
def resampleFrom (fin fout : Nat) : List (BitVec 16) → Nat → List (BitVec 16) × Nat
  | [], acc => ([], acc)
  | x :: xs, acc =>
    let r := resampleStep acc fin fout
    let q := resampleFrom fin fout xs r.1
    (if r.2 then x :: q.1 else q.1, q.2)

/-- `resample_stream` (R136): from accumulator 0. -/
def resampleStream (xs : List (BitVec 16)) (fin fout : Nat) : List (BitVec 16) × Nat :=
  resampleFrom fin fout xs 0

/-- An RGB triple of the raster stream (R66). -/
abbrev Rgb := BitVec 8 × BitVec 8 × BitVec 8

/-- The two bytes of a packed colour, most significant first (R56, R150). -/
def colorBytes (auxm : AuxMode) (p : Rgb) : List Byte :=
  let v := packColor p.1 p.2.1 p.2.2 auxm
  [v.extractLsb' 8 8, v.extractLsb' 0 8]

/-- `pack_raster` (R150): the pixels' bytes, then 0 up to `2*vw*vh` bytes. -/
def packRaster (ps : List Rgb) (vw vh : Nat) (auxm : AuxMode) : List Byte :=
  ps.flatMap (colorBytes auxm) ++ List.replicate (2 * vw * vh - 2 * ps.length) 0x00#8

/-! ## Macros -/

/-- ENCSTREAM (R89). -/
def macroEncstream (xs : List (BitVec 16)) : List Instr :=
  .arst :: (xs.map .aencs ++ [.aflush])

/-- DECSTREAM (R89): `n` samples in `ceil(n/2)` bytes. -/
def macroDecstream (bytes : List Byte) (n : Nat) : List Instr :=
  .arst :: ((bytes.take (n / 2)).map .adecb
    ++ if n % 2 = 1 then [.adec (lowCode (bytes.getD (n / 2) 0x00#8))] else [])

/-- RESAMPLE (R89). -/
def macroResample (xs : List (BitVec 16)) : List Instr :=
  .rrst :: xs.map .rsmp

/-- PACKRASTER (R89). -/
def macroPackraster (w h : BitVec 12) (ps : List Rgb) : List Instr :=
  .pbegin w h :: (ps.map (fun p => Instr.ppix p.1 p.2.1 p.2.2) ++ [.pend])

/-- The commands of a list executed one after the other as `run` executes one (`exec`, or `execWith` of some parameters),
stopping where one does not answer. -/
def execAll (run : Instr → State → Outcome State) : List Instr → State → Outcome State
  | [], s => .next s
  | i :: rest, s =>
    match run i s with
    | .next t => execAll run rest t
    | .fault f => .fault f
    | .refused r => .refused r

/-! ## What the host collects -/

/-- The code bytes of codec responses: the BYTE fields of those with BV = 1, in order (R89). -/
def collectBytes (rs : List Response) : List Byte :=
  rs.filterMap fun r => if r.data.getLsbD 22 then some (r.data.extractLsb' 24 8) else none

/-- The samples of RSMP responses: `data[15:0]` of those with EMIT = 1, in order (R89). -/
def collectSamples (rs : List Response) : List (BitVec 16) :=
  rs.filterMap fun r => if r.data.getLsbD 16 then some (r.data.extractLsb' 0 16) else none

/-- The estimates a command's response carries: two for ADECB (R77), one for ADEC (R76). -/
def responseEstimates (i : Instr) (r : Response) : List (BitVec 12) :=
  match i with
  | .adecb _ => [r.data.extractLsb' 0 12, r.data.extractLsb' 12 12]
  | .adec _ => [r.data.extractLsb' 0 12]
  | .nop | .cwr _ _ | .crd _ | .srst | .arst | .anrw _ | .aenc _ | .apck _ | .aflush | .aencs _ => []
  | .rrst | .dmix _ _ | .rsmp _ | .pconv _ _ _ | .pbegin _ _ | .ppix _ _ _ | .pend | .prd _ => []
  | .fvs _ _ | .fsz _ | .frc _ | .fdur _ _ => []

/-- The decoded estimates of a run of commands and their responses, as signed numbers, in order. -/
def collectEstimates (is : List Instr) (rs : List Response) : List Int :=
  ((is.zip rs).flatMap fun p => responseEstimates p.1 p.2).map sext

end Sys2Proof.Machine
end

