-- ==== Sys2Proof/Safety.lean ====
section
/-! DEFINITION. What the statements call a proper state and a proper run: the invariants the spec gives the registers,
the outcomes a step may have, and the classes of commands the error rules name. -/

namespace Sys2Proof.Machine

/-- The number of bytes of PIXBUF (R20, R50). -/
def pixbufCapacity : Nat := 2 * Config.maxViewW * Config.maxViewH

/-- A response the block can give: status 0 to 5, data 0 unless the status is 0 (R71, R190, U7). -/
def Response.proper (r : Response) : Prop :=
  r.status.toNat ≤ 5 ∧ (r.status ≠ 0#4 → r.data = 0#32)

/-- The codec's part of the invariant: SI is a table index (R21, R23). EST is in range by its width (R22). -/
def State.codecInv (s : State) : Prop := s.si.toNat ≤ 48

/-- The packer's: NLO is 0 whenever NPH is 0 (R24). -/
def State.packerInv (s : State) : Prop := s.nph = false → s.nlo = 0#4

/-- The resampler's: `ACC < FIN` when FIN is configured, 0 otherwise (R25). -/
def State.resamplerInv (s : State) : Prop :=
  (s.fin = 0#24 → s.acc = 0#25) ∧ (s.fin ≠ 0#24 → s.acc.toNat < s.fin.toNat)

/-- The view's: each dimension is unconfigured or in its limits (R27). -/
def State.viewInv (s : State) : Prop :=
  s.vieww.toNat ≤ Config.maxViewW ∧ s.viewh.toNat ≤ Config.maxViewH

/-- The raster's (R29, R30, R41): nothing latched in IDLE; `PCUR ≤ PLIM` and `2*PLIM ≤ PBYTES`, which fits the buffer;
a completed raster has all its pixels. -/
def State.rasterInv (s : State) : Prop :=
  (s.pst = .idle → s.pcur = 0#25 ∧ s.plim = 0#25 ∧ s.pbytes = 0#26) ∧
  s.pcur.toNat ≤ s.plim.toNat ∧
  2 * s.plim.toNat ≤ s.pbytes.toNat ∧
  s.pbytes.toNat ≤ pixbufCapacity ∧
  (s.pst = .done → s.pcur = s.plim)

/-- The buffer's: canonical, and nothing but the pixels taken so far differs from 0 (R55). -/
def State.bufferInv (s : State) : Prop :=
  s.pixbuf.wf ∧ ∀ c ∈ s.pixbuf.cells, c.1 < 2 * s.pcur.toNat

/-- The latch's: FOP and FARG are 0 while no error has occurred (R32). -/
def State.latchInv (s : State) : Prop := s.fault = none → s.fop = 0#8 ∧ s.farg = 0#32

/-- Every response given is a proper one. -/
def State.repliesInv (s : State) : Prop := ∀ r ∈ s.replies, r.proper

/-- The invariant of every reachable state. -/
structure State.Inv (s : State) : Prop where
  codec : s.codecInv
  packer : s.packerInv
  resampler : s.resamplerInv
  view : s.viewInv
  raster : s.rasterInv
  buffer : s.bufferInv
  latch : s.latchInv
  replies : s.repliesInv

/-- A step that neither faults nor refuses. -/
def Answers (o : Outcome State) : Prop := ∃ t, o = .next t

/-- The three commands a latched block still executes (R197). -/
def RunsLatched (i : Instr) : Prop := i = .nop ∨ (∃ idx, i = .crd idx) ∨ i = .srst

/-- The state after a command that completed: the response has status 0 and the data (R71). -/
def State.replied (s : State) (data : Word32) : State :=
  { s with replies := s.replies ++ [⟨0#4, data⟩] }

/-- The state after the first error since reset: the latch holds the error, the opcode and the operand, the response has
the error's status and data 0, and nothing else has changed (R196). -/
def State.raised (s : State) (e : ErrorCode) (status : BitVec 4) (op : BitVec 8) (arg : Word32) : State :=
  { s with fault := some e, fop := op, farg := arg, replies := s.replies ++ [⟨status, 0#32⟩] }

/-- The state after a command refused by the latch: status 5, data 0, nothing else (R195). -/
def State.aborted (s : State) : State :=
  { s with replies := s.replies ++ [⟨5#4, 0#32⟩] }

/-- Every register at its reset value, and no byte of PIXBUF with a value (R41). -/
def State.AtReset (s : State) : Prop :=
  s.si = 0#6 ∧ s.est = 0#12 ∧ s.nph = false ∧ s.nlo = 0#4 ∧ s.acc = 0#25 ∧ s.fin = 0#24 ∧ s.fout = 0#24 ∧
  s.vieww = 0#12 ∧ s.viewh = 0#12 ∧ s.auxm = .defaultMode ∧ s.pst = .idle ∧ s.pcur = 0#25 ∧ s.plim = 0#25 ∧
  s.pbytes = 0#26 ∧ s.fault = none ∧ s.fop = 0#8 ∧ s.farg = 0#32 ∧ ∀ a, s.memRead a = none

/-- The view is configured (R180). -/
def State.ViewConfigured (s : State) : Prop := s.vieww ≠ 0#12 ∧ s.viewh ≠ 0#12

/-- The last response of a list, as a status (none for an empty list). -/
def lastStatus (rs : List Response) : Option (BitVec 4) := rs.getLast?.map Response.status

/-- Two states whose registers and buffer agree: they can differ at the port alone. -/
def State.SameBlock (s t : State) : Prop :=
  { s with port := [], replies := [] } = { t with port := [], replies := [] }

/-- Two states that agree on everything but the fault latch and the port. -/
def State.SameButLatch (s t : State) : Prop :=
  { s with fault := none, fop := 0#8, farg := 0#32, port := [], replies := [] } =
  { t with fault := none, fop := 0#8, farg := 0#32, port := [], replies := [] }

end Sys2Proof.Machine
end

