-- ==== Sys2Proof/Certificates/Slice0/Obligations.lean ====
section
/-! DEFINITION. The statements for the provers. Spec arithmetic is written out again here, in integers and with division
for the shifts, so that a statement does not merely repeat the definition it is about. Sections: decoding; the step; reset
and invariants; errors; whole-machine rules; control; codec; resampler; pixel unit; frame timing; whole streams. -/

open Sys2Proof Sys2Proof.Machine

/-! ## Decoding and encoding -/

/-- Decoding the word of a well-formed command gives the command back, every field at every value (R70, R74, R90). -/
def Obligations.DecodeEncodeRoundTrip : Prop :=
  ∀ i : Instr, i.wellFormed = true → decode (encode i) = some i

/-- A word that decodes has one meaning: it is the word of the well-formed command it decodes to, so no bit of it was
ignored (R75, R90). -/
def Obligations.EncodeDecodeRoundTrip : Prop :=
  ∀ (w : CommandWord) (i : Instr), decode w = some i → i.wellFormed = true ∧ encode i = w

/-- Words written out from R73 and R74 decode to the command they stand for, one per command unit and form. -/
def Obligations.KnownWordsDecode : Prop :=
  decode 0x0000000000#40 = some .nop ∧
  decode 0x010300BB80#40 = some (.cwr 0x03#8 48000#24) ∧
  decode 0x0210000000#40 = some (.crd 0x10#8) ∧
  decode 0x1300000800#40 = some (.aenc 0x800#12) ∧
  decode 0x21FFFDFFFC#40 = some (.dmix 0xFFFD#16 0xFFFC#16) ∧
  decode 0x31007F0060#40 = some (.pbegin 127#12 96#12) ∧
  decode 0x3200123456#40 = some (.ppix 0x12#8 0x34#8 0x56#8) ∧
  decode 0x4300000102#40 = some (.fdur 1#1 2#8)

/-- Exactly which words are illegal, when the block decodes the word at all (the latch is clear or the opcode is NOP, CRD or
SRST): a reserved opcode, a reserved operand bit, a CWR index above 0x04, a CRD index outside the map. Such a word
answers E_ILLEGAL and changes nothing but the latch; no other word answers E_ILLEGAL (R191). -/
def Obligations.IllegalExactly : Prop :=
  ∀ (s : State) (w : CommandWord),
    let op := w.toNat / 2 ^ 32
    let arg := w.toNat % 2 ^ 32
    (s.fault = none ∨ op = 0x00 ∨ op = 0x02 ∨ op = 0x03) →
    ∃ t, accept w s = .next t ∧
      (lastStatus t.replies = some 1#4 ↔
        (op ∉ [0x00, 0x01, 0x02, 0x03, 0x10, 0x11, 0x12, 0x13, 0x14, 0x15, 0x16, 0x17, 0x20, 0x21, 0x22,
               0x30, 0x31, 0x32, 0x33, 0x34, 0x40, 0x41, 0x42, 0x43]) ∨
        (op ∈ [0x00, 0x03, 0x10, 0x15, 0x20, 0x33] ∧ arg ≠ 0) ∨
        (op = 0x02 ∧ arg % 2 ^ 24 ≠ 0) ∨
        (op ∈ [0x11, 0x16, 0x22, 0x40] ∧ arg / 2 ^ 16 ≠ 0) ∨
        (op ∈ [0x12, 0x14] ∧ arg / 2 ^ 4 ≠ 0) ∨
        (op = 0x13 ∧ arg / 2 ^ 12 ≠ 0) ∨
        (op ∈ [0x17, 0x42] ∧ arg / 2 ^ 8 ≠ 0) ∨
        (op ∈ [0x30, 0x32, 0x41] ∧ arg / 2 ^ 24 ≠ 0) ∨
        (op = 0x31 ∧ (arg / 2 ^ 28 ≠ 0 ∨ arg / 2 ^ 12 % 2 ^ 4 ≠ 0)) ∨
        (op = 0x34 ∧ arg / 2 ^ 26 ≠ 0) ∨
        (op = 0x43 ∧ arg / 2 ^ 9 ≠ 0) ∨
        (op = 0x01 ∧ arg / 2 ^ 24 > 0x04) ∨
        (op = 0x02 ∧ arg / 2 ^ 24 ∉ [0x00, 0x01, 0x02, 0x03, 0x04, 0x10, 0x11, 0x12, 0x13, 0x20, 0x21, 0x22, 0x23,
                                      0x30, 0x31, 0x32])) ∧
      (lastStatus t.replies = some 1#4 → s.SameButLatch t)

/-! ## The step -/

/-- When the host's next action is a command word that decodes, the step is the command's behaviour on the state with
that action taken from the port (R197, R238). -/
def Obligations.StepRunsTheDecodedCommand : Prop :=
  ∀ (s : State) (w : CommandWord) (i : Instr) (rest : List HostAction),
    s.port = .command w :: rest → decode w = some i →
    i.wellFormed = true ∧ step s = exec i { s with port := rest }

/-- The other steps: an illegal word of an unlatched block raises E_ILLEGAL; an illegal word of a latched block answers
E_ABORTED unless its opcode is NOP, CRD or SRST, and then E_ILLEGAL without touching the latch; hardware reset resets
the block and answers nothing. With nothing at the port the model's step changes nothing (the model's choice, log 8). -/
def Obligations.StepOnEverythingElse : Prop :=
  (∀ (s : State) (w : CommandWord) (rest : List HostAction),
    s.port = .command w :: rest → decode w = none → s.fault = none →
    step s = .next ({ s with port := rest }.raised .illegal 1#4 (w.extractLsb' 32 8) (w.extractLsb' 0 32))) ∧
  (∀ (s : State) (w : CommandWord) (rest : List HostAction) (e : ErrorCode),
    s.port = .command w :: rest → decode w = none → s.fault = some e →
    step s = .next { s with
      port := rest
      replies := s.replies ++
        [if w.extractLsb' 32 8 ∈ [0x00#8, 0x02#8, 0x03#8] then ⟨1#4, 0#32⟩ else ⟨5#4, 0#32⟩] }) ∧
  (∀ (s : State) (rest : List HostAction), s.port = .hardwareReset :: rest →
    step s = .next { State.reset with port := rest, replies := s.replies }) ∧
  (∀ s : State, s.port = [] → step s = .next s)

/-- Every step is total: it takes exactly the host's next action, a command word gets exactly one response and that is a
proper one, hardware reset gets none; no step faults or refuses (R238, R239). -/
def Obligations.EveryStepAnswersOnce : Prop :=
  ∀ s : State, ∃ t, step s = .next t ∧ t.port = s.port.tail ∧
    ∀ (a : HostAction) (rest : List HostAction), s.port = a :: rest →
      match a with
      | .command _ => ∃ r, t.replies = s.replies ++ [r] ∧ r.proper
      | .hardwareReset => t.replies = s.replies

/-- Every command answers on every state, with one proper response, and leaves the host's port alone (R71, R238). -/
def Obligations.EveryCommandAnswersOnce : Prop :=
  ∀ (i : Instr) (s : State), ∃ t r, exec i s = .next t ∧ t.port = s.port ∧ t.replies = s.replies ++ [r] ∧ r.proper

/-! ## Reset and invariants -/

/-- What hardware reset and SRST leave: every register at its reset value, no byte of PIXBUF with a value, and PRD refused
with E_SEQ from there (R41). -/
def Obligations.ResetLeavesTheResetValues : Prop :=
  ∀ (s t : State),
    (t = State.reset ∨ perAction .hardwareReset s = .next t ∨ exec .srst s = .next t) →
    t.AtReset ∧
    ∀ addr, exec (.prd addr) t = .next (t.raised .seq 4#4 0x34#8 (0#6 ++ addr))

/-- The invariant holds of the reset state (R41). -/
def Obligations.ResetSatisfiesInv : Prop := State.reset.Inv

/-- Every step keeps the invariant: SI a table index, NLO 0 while nothing is held, ACC below FIN, the view in its limits,
PCUR, PLIM and PBYTES in their order, the buffer in canonical form with nothing past the cursor, FOP and FARG 0 while
the latch is clear, every response proper (R23, R24, R25, R27, R30, R32). -/
def Obligations.EveryStepKeepsInv : Prop :=
  ∀ s t : State, s.Inv → step s = .next t → t.Inv

/-! ## Errors -/

/-- While the latch is set every word whose opcode is not NOP, CRD or SRST, malformed ones too, is answered E_ABORTED and
changes nothing (R195). -/
def Obligations.LatchedBlockAborts : Prop :=
  (∀ (s : State) (w : CommandWord), s.fault ≠ none →
    w.extractLsb' 32 8 ∉ [0x00#8, 0x02#8, 0x03#8] → accept w s = .next s.aborted) ∧
  (∀ (s : State) (i : Instr), s.fault ≠ none → ¬ RunsLatched i → exec i s = .next s.aborted)

/-- Errors are precise: a word answered with a status of 1 to 4 leaves every register and every byte of PIXBUF as it was,
and records itself in the latch exactly when the latch was clear; its response data is 0 (R196). -/
def Obligations.ErrorsArePrecise : Prop :=
  ∀ (s t : State) (w : CommandWord) (r : Response),
    accept w s = .next t → t.replies = s.replies ++ [r] → 1 ≤ r.status.toNat → r.status.toNat ≤ 4 →
    r.data = 0#32 ∧ s.SameButLatch t ∧ t.port = s.port ∧ (∀ a, t.memRead a = s.memRead a) ∧
    (s.fault = none →
      (faultCode t.fault).toNat = r.status.toNat ∧ t.fop = w.extractLsb' 32 8 ∧ t.farg = w.extractLsb' 0 32) ∧
    (s.fault ≠ none → t.fault = s.fault ∧ t.fop = s.fop ∧ t.farg = s.farg)

/-- The latch holds the first error: no step changes a set latch, but for SRST and hardware reset, which clear it (R32,
R197). -/
def Obligations.FirstErrorStays : Prop :=
  ∀ s t : State, s.fault ≠ none → step s = .next t →
    (t.fault = s.fault ∧ t.fop = s.fop ∧ t.farg = s.farg) ∨
    (t.fault = none ∧ t.fop = 0#8 ∧ t.farg = 0#32 ∧
      (s.port.head? = some .hardwareReset ∨ s.port.head? = some (.command 0x0300000000#40)))

/-- E_PARAM has exactly these causes (R192). -/
def Obligations.ParamErrorExactly : Prop :=
  ∀ (s : State) (i : Instr), s.fault = none → i.wellFormed = true →
    ∃ t, exec i s = .next t ∧
      (lastStatus t.replies = some 2#4 ↔
        (∃ v, i = .cwr 0x00#8 v ∧ ¬ (1 ≤ v.toNat ∧ v.toNat ≤ Config.maxViewW)) ∨
        (∃ v, i = .cwr 0x01#8 v ∧ ¬ (1 ≤ v.toNat ∧ v.toNat ≤ Config.maxViewH)) ∨
        (∃ v, i = .cwr 0x02#8 v ∧ 1 < v.toNat) ∨
        i = .cwr 0x03#8 0#24 ∨ i = .cwr 0x04#8 0#24 ∨
        (∃ x, i = .rsmp x ∧ (s.fin = 0#24 ∨ s.fout = 0#24 ∨ s.fin.toNat < s.fout.toNat)) ∨
        (∃ w h, i = .pbegin w h ∧ s.pst ≠ .opened ∧
          (¬ s.ViewConfigured ∨ (w = s.vieww ∧ s.viewh.toNat < h.toNat))) ∨
        (∃ a, i = .prd a ∧ s.pst ≠ .idle ∧ s.pbytes.toNat ≤ a.toNat) ∨
        (∃ rc k, i = .fvs rc k ∧ (timing.nrc ≤ rc.toNat ∨ timing.nfps ≤ k.toNat)) ∨
        (∃ v, i = .fsz v ∧ ¬ s.ViewConfigured) ∨
        (∃ rc, i = .frc rc ∧ timing.nrc ≤ rc.toNat) ∨
        (∃ sel k, i = .fdur sel k ∧ timing.nfps ≤ k.toNat))

/-- E_FORMAT has exactly one cause: a PBEGIN, with no raster open and the view configured, whose width is not the view's.
A raster shorter than the view is no error, a taller one of the right width is E_PARAM (R193). -/
def Obligations.FormatErrorExactly : Prop :=
  ∀ (s : State) (i : Instr), s.fault = none → i.wellFormed = true →
    ∃ t, exec i s = .next t ∧
      (lastStatus t.replies = some 3#4 ↔
        ∃ w h, i = .pbegin w h ∧ s.pst ≠ .opened ∧ s.ViewConfigured ∧ w ≠ s.vieww) ∧
      (∀ h, i = .pbegin s.vieww h → s.pst ≠ .opened → s.ViewConfigured →
        (h.toNat ≤ s.viewh.toNat → lastStatus t.replies = some 0#4) ∧
        (s.viewh.toNat < h.toNat → lastStatus t.replies = some 2#4))

/-- E_SEQ has exactly these causes, all of them pixel-unit commands (R194). -/
def Obligations.SequenceErrorExactly : Prop :=
  ∀ (s : State) (i : Instr), s.fault = none → i.wellFormed = true →
    ∃ t, exec i s = .next t ∧
      (lastStatus t.replies = some 4#4 ↔
        (∃ w h, i = .pbegin w h ∧ s.pst = .opened) ∨
        (∃ r g b, i = .ppix r g b ∧ (s.pst ≠ .opened ∨ s.plim.toNat ≤ s.pcur.toNat)) ∨
        (i = .pend ∧ (s.pst ≠ .opened ∨ s.pcur ≠ s.plim)) ∨
        (∃ a, i = .prd a ∧ s.pst = .idle))

/-! ## Whole-machine rules -/

/-- The "written by" column of R20: a register changes only under a command that the table names for it (the latch:
under a failing command, and SRST). -/
def Obligations.RegistersChangeOnlyByTheirWriters : Prop :=
  ∀ (s t : State) (i : Instr), exec i s = .next t →
    ((t.si ≠ s.si ∨ t.est ≠ s.est) →
      i.opcode ∈ [Opcode.arst, .adec, .aenc, .aencs, .adecb, .srst]) ∧
    ((t.nph ≠ s.nph ∨ t.nlo ≠ s.nlo) →
      i.opcode ∈ [Opcode.arst, .apck, .aflush, .aencs, .srst]) ∧
    (t.acc ≠ s.acc →
      i.opcode ∈ [Opcode.rrst, .rsmp, .srst] ∨ (∃ v, i = .cwr 0x03#8 v) ∨ (∃ v, i = .cwr 0x04#8 v)) ∧
    (t.fin ≠ s.fin → i = .srst ∨ ∃ v, i = .cwr 0x03#8 v) ∧
    (t.fout ≠ s.fout → i = .srst ∨ ∃ v, i = .cwr 0x04#8 v) ∧
    (t.vieww ≠ s.vieww → i = .srst ∨ ∃ v, i = .cwr 0x00#8 v) ∧
    (t.viewh ≠ s.viewh → i = .srst ∨ ∃ v, i = .cwr 0x01#8 v) ∧
    (t.auxm ≠ s.auxm → i = .srst ∨ ∃ v, i = .cwr 0x02#8 v) ∧
    (t.pst ≠ s.pst → i.opcode ∈ [Opcode.pbegin, .pend, .srst]) ∧
    (t.pcur ≠ s.pcur → i.opcode ∈ [Opcode.pbegin, .ppix, .srst]) ∧
    ((t.plim ≠ s.plim ∨ t.pbytes ≠ s.pbytes) → i.opcode ∈ [Opcode.pbegin, .srst]) ∧
    (t.pixbuf ≠ s.pixbuf → i.opcode ∈ [Opcode.pbegin, .ppix, .srst]) ∧
    ((t.fault ≠ s.fault ∨ t.fop ≠ s.fop ∨ t.farg ≠ s.farg) →
      i = .srst ∨ (s.fault = none ∧ lastStatus t.replies ≠ some 0#4))

/-- PST moves in only three ways: IDLE or DONE to OPEN by a PBEGIN that succeeds, OPEN to DONE by a PEND that succeeds, any
state to IDLE by SRST or hardware reset (R29). -/
def Obligations.RasterStateTransitions : Prop :=
  (∀ (s t : State) (i : Instr), exec i s = .next t → t.pst ≠ s.pst →
    (i.opcode = .pbegin ∧ lastStatus t.replies = some 0#4 ∧ s.pst ≠ .opened ∧ t.pst = .opened) ∨
    (i = .pend ∧ lastStatus t.replies = some 0#4 ∧ s.pst = .opened ∧ t.pst = .done) ∨
    (i = .srst ∧ t.pst = .idle)) ∧
  (∀ (s t : State) (w h : BitVec 12), exec (.pbegin w h) s = .next t → lastStatus t.replies = some 0#4 →
    t.pst = .opened) ∧
  (∀ s t : State, exec .pend s = .next t → lastStatus t.replies = some 0#4 → t.pst = .done) ∧
  (∀ s t : State, exec .srst s = .next t → t.pst = .idle) ∧
  (∀ s t : State, perAction .hardwareReset s = .next t → t.pst = .idle)

/-- The commands that only compute or only read change no register and no byte of PIXBUF when they succeed, and nothing
but the latch when they fail: NOP, CRD, ANRW, DMIX, PCONV, PRD, FVS, FSZ, FRC, FDUR. -/
def Obligations.ReadsAndPureCommandsChangeNothing : Prop :=
  ∀ (s t : State) (i : Instr), exec i s = .next t →
    i.opcode ∈ [Opcode.nop, .crd, .anrw, .dmix, .pconv, .prd, .fvs, .fsz, .frc, .fdur] →
    s.SameButLatch t ∧ t.port = s.port ∧ (∀ a, t.memRead a = s.memRead a) ∧
    (lastStatus t.replies = some 0#4 → s.SameBlock t)

/-- The command port is not state of the block: two states that differ only in what the host will issue and in the
responses already given answer every command alike and agree again afterwards (R37). -/
def Obligations.PortIsNoStateOfTheBlock : Prop :=
  ∀ (s s' : State) (i : Instr), s.SameBlock s' →
    ∃ t t' r, exec i s = .next t ∧ exec i s' = .next t' ∧ t.SameBlock t' ∧
      t.replies = s.replies ++ [r] ∧ t'.replies = s'.replies ++ [r]

/-- No command can tell what lies in PIXBUF where the spec gives no content: two states whose registers agree, and whose
PIXBUF agrees on every byte that has a value, answer every command alike and stay so related. (That such a byte has no
value is R41; how the model holds the buffer is its own choice, log 1.) -/
def Obligations.UnspecifiedBytesAreUnobservable : Prop :=
  ∀ (s s' : State) (i : Instr), s.pixbuf.wf → s'.pixbuf.wf →
    { s with pixbuf := Memory.cleared } = { s' with pixbuf := Memory.cleared } →
    (∀ a, s.memRead a = s'.memRead a) →
    ∃ t t', exec i s = .next t ∧ exec i s' = .next t' ∧ t.pixbuf.wf ∧ t'.pixbuf.wf ∧
      { t with pixbuf := Memory.cleared } = { t' with pixbuf := Memory.cleared } ∧
      ∀ a, t.memRead a = t'.memRead a

/-! ## Control commands -/

/-- NOP (R176): its encoding; it answers 0 in every state, the latch set or not, and changes nothing; any operand bit is
E_ILLEGAL; the all-zero word is NOP. -/
def Obligations.NopAnswersZero : Prop :=
  (∀ arg : Word32, decode (0x00#8 ++ arg) = if arg = 0#32 then some .nop else none) ∧
  (∀ s : State, exec .nop s = .next (s.replied 0#32)) ∧
  (∀ (s : State) (arg : Word32), arg ≠ 0#32 →
    ∃ t, accept (0x00#8 ++ arg) s = .next t ∧ t.replies = s.replies ++ [⟨1#4, 0#32⟩] ∧ s.SameButLatch t) ∧
  decode 0#40 = some .nop

/-- CWR (R177): its encoding; for each of the five registers, a legal value is written and answered, FIN and FOUT clear
ACC, and any other value is E_PARAM with the register kept; an index above 0x04 is E_ILLEGAL. A block built with other view
limits (R4) refuses a dimension by its own limits and writes every other that fits the register's 12 bits. -/
def Obligations.CwrWritesTheRegister : Prop :=
  (∀ arg : Word32, decode (0x01#8 ++ arg) =
    if (arg.extractLsb' 24 8).toNat ≤ 0x04 then some (.cwr (arg.extractLsb' 24 8) (arg.extractLsb' 0 24)) else none) ∧
  ∀ (s : State) (v : BitVec 24), s.fault = none →
    (1 ≤ v.toNat → v.toNat ≤ Config.maxViewW →
      exec (.cwr 0x00#8 v) s = .next ({ s with vieww := BitVec.ofNat 12 v.toNat }.replied (0#8 ++ v)) ∧
      v.toNat < 2 ^ 12) ∧
    (¬ (1 ≤ v.toNat ∧ v.toNat ≤ Config.maxViewW) →
      exec (.cwr 0x00#8 v) s = .next (s.raised .param 2#4 0x01#8 (0x00#8 ++ v))) ∧
    (1 ≤ v.toNat → v.toNat ≤ Config.maxViewH →
      exec (.cwr 0x01#8 v) s = .next ({ s with viewh := BitVec.ofNat 12 v.toNat }.replied (0#8 ++ v)) ∧
      v.toNat < 2 ^ 12) ∧
    (¬ (1 ≤ v.toNat ∧ v.toNat ≤ Config.maxViewH) →
      exec (.cwr 0x01#8 v) s = .next (s.raised .param 2#4 0x01#8 (0x01#8 ++ v))) ∧
    exec (.cwr 0x02#8 0#24) s = .next ({ s with auxm := .defaultMode }.replied 0#32) ∧
    exec (.cwr 0x02#8 1#24) s = .next ({ s with auxm := .intensityMode }.replied 1#32) ∧
    (2 ≤ v.toNat → exec (.cwr 0x02#8 v) s = .next (s.raised .param 2#4 0x01#8 (0x02#8 ++ v))) ∧
    (v ≠ 0#24 → exec (.cwr 0x03#8 v) s = .next ({ s with fin := v, acc := 0#25 }.replied (0#8 ++ v))) ∧
    exec (.cwr 0x03#8 0#24) s = .next (s.raised .param 2#4 0x01#8 0x03000000#32) ∧
    (v ≠ 0#24 → exec (.cwr 0x04#8 v) s = .next ({ s with fout := v, acc := 0#25 }.replied (0#8 ++ v))) ∧
    exec (.cwr 0x04#8 0#24) s = .next (s.raised .param 2#4 0x01#8 0x04000000#32) ∧
    (∀ idx : BitVec 8, 0x04 < idx.toNat →
      exec (.cwr idx v) s = .next (s.raised .illegal 1#4 0x01#8 (idx ++ v))) ∧
    (∀ P : Parameters,
      (1 ≤ v.toNat → v.toNat ≤ P.view.maxW → v.toNat < 2 ^ 12 →
        execWith P (.cwr 0x00#8 v) s = .next ({ s with vieww := BitVec.ofNat 12 v.toNat }.replied (0#8 ++ v))) ∧
      (¬ (1 ≤ v.toNat ∧ v.toNat ≤ P.view.maxW) →
        execWith P (.cwr 0x00#8 v) s = .next (s.raised .param 2#4 0x01#8 (0x00#8 ++ v))) ∧
      (1 ≤ v.toNat → v.toNat ≤ P.view.maxH → v.toNat < 2 ^ 12 →
        execWith P (.cwr 0x01#8 v) s = .next ({ s with viewh := BitVec.ofNat 12 v.toNat }.replied (0#8 ++ v))) ∧
      (¬ (1 ≤ v.toNat ∧ v.toNat ≤ P.view.maxH) →
        execWith P (.cwr 0x01#8 v) s = .next (s.raised .param 2#4 0x01#8 (0x01#8 ++ v))))

/-- CRD (R178): its encoding; each of the 16 registers in its layout, in every state, the latch set or not; a reserved
index is E_ILLEGAL. -/
def Obligations.CrdReadsEveryRegister : Prop :=
  (∀ arg : Word32, decode (0x02#8 ++ arg) =
    if arg.extractLsb' 0 24 = 0#24 ∧ Instr.crdIndexOk (arg.extractLsb' 24 8) then some (.crd (arg.extractLsb' 24 8))
    else none) ∧
  ∀ s : State,
    exec (.crd 0x00#8) s = .next (s.replied (0#20 ++ s.vieww)) ∧
    exec (.crd 0x01#8) s = .next (s.replied (0#20 ++ s.viewh)) ∧
    exec (.crd 0x02#8) s = .next (s.replied (match s.auxm with | .defaultMode => 0#32 | .intensityMode => 1#32)) ∧
    exec (.crd 0x03#8) s = .next (s.replied (0#8 ++ s.fin)) ∧
    exec (.crd 0x04#8) s = .next (s.replied (0#8 ++ s.fout)) ∧
    exec (.crd 0x10#8) s = .next (s.replied (0#26 ++ s.si)) ∧
    exec (.crd 0x11#8) s = .next (s.replied (0#20 ++ s.est)) ∧
    exec (.crd 0x12#8) s = .next (s.replied (BitVec.ofNat 32 ((if s.nph then 16 else 0) + s.nlo.toNat))) ∧
    exec (.crd 0x13#8) s = .next (s.replied (0#7 ++ s.acc)) ∧
    exec (.crd 0x20#8) s =
      .next (s.replied (match s.pst with | .idle => 0#32 | .opened => 1#32 | .done => 2#32)) ∧
    exec (.crd 0x21#8) s = .next (s.replied (0#7 ++ s.pcur)) ∧
    exec (.crd 0x22#8) s = .next (s.replied (0#7 ++ s.plim)) ∧
    exec (.crd 0x23#8) s = .next (s.replied (0#6 ++ s.pbytes)) ∧
    exec (.crd 0x30#8) s = .next (s.replied (match s.fault with
      | none => 0#32 | some .illegal => 1#32 | some .param => 2#32 | some .format => 3#32 | some .seq => 4#32)) ∧
    exec (.crd 0x31#8) s = .next (s.replied (0#24 ++ s.fop)) ∧
    exec (.crd 0x32#8) s = .next (s.replied s.farg) ∧
    (∀ idx : BitVec 8, ¬ Instr.crdIndexOk idx → s.fault = none →
      exec (.crd idx) s = .next (s.raised .illegal 1#4 0x02#8 (idx ++ 0#24))) ∧
    (∀ idx : BitVec 8, ¬ Instr.crdIndexOk idx → s.fault ≠ none →
      exec (.crd idx) s = .next { s with replies := s.replies ++ [⟨1#4, 0#32⟩] })

/-- SRST (R179): its encoding; in every state, the latch set or not, it leaves the block as hardware reset does, and answers
0; any operand bit is E_ILLEGAL and the block is not reset; no other command clears the latch. -/
def Obligations.SrstResetsLikeHardware : Prop :=
  (∀ arg : Word32, decode (0x03#8 ++ arg) = if arg = 0#32 then some .srst else none) ∧
  (∀ s : State,
    exec .srst s = .next { State.reset with port := s.port, replies := s.replies ++ [⟨0#4, 0#32⟩] } ∧
    perAction .hardwareReset s = .next { State.reset with port := s.port, replies := s.replies }) ∧
  (∀ (s : State) (arg : Word32), arg ≠ 0#32 →
    ∃ t, accept (0x03#8 ++ arg) s = .next t ∧ t.replies = s.replies ++ [⟨1#4, 0#32⟩] ∧ s.SameButLatch t) ∧
  (∀ (s t : State) (i : Instr), exec i s = .next t → s.fault ≠ none → t.fault = none → i = .srst)

/-! ## Codec: functions -/

/-- `adpcm_delta` in integer arithmetic (R100): each plane is divided and truncated by itself, the sign is bit 3; it is
never 0 for a step size of at least 8; its 16 values at the smallest and the largest default step size. -/
def Obligations.AdpcmDeltaFormula : Prop :=
  (∀ (code : Code) (ss : Nat),
    let m : Nat := ss / 8 + (if code.toNat % 2 = 1 then ss / 4 else 0)
      + (if code.toNat / 2 % 2 = 1 then ss / 2 else 0) + (if code.toNat / 4 % 2 = 1 then ss else 0)
    adpcmDelta code ss = if 8 ≤ code.toNat then -(m : Int) else (m : Int)) ∧
  (∀ (code : Code) (ss : Nat), 8 ≤ ss → adpcmDelta code ss ≠ 0) ∧
  (List.range 16).map (fun c => adpcmDelta (BitVec.ofNat 4 c) 16) =
    [2, 6, 10, 14, 18, 22, 26, 30, -2, -6, -10, -14, -18, -22, -26, -30] ∧
  (List.range 16).map (fun c => adpcmDelta (BitVec.ofNat 4 c) 1552) =
    [194, 582, 970, 1358, 1746, 2134, 2522, 2910, -194, -582, -970, -1358, -1746, -2134, -2522, -2910]

/-- `adpcm_decode` (R101), for any legal tables: the incoming index selects the step size, both results are saturated;
and so, whatever the tables, in range (R108). -/
def Obligations.AdpcmDecodeSaturates : Prop :=
  ∀ (T : CodecTables) (code : Code) (si : Nat) (est : Int),
    (∀ ss adj, T.stepSize[si]? = some ss → T.stepAdjust[code.toNat]? = some adj →
      adpcmDecode T code si est =
        (max (-2048) (min 2047 (est + adpcmDelta code ss)), max 0 (min 48 ((si : Int) + adj)))) ∧
    (si ≤ 48 → ∃ ss adj, T.stepSize[si]? = some ss ∧ T.stepAdjust[code.toNat]? = some adj) ∧
    -2048 ≤ (adpcmDecode T code si est).1 ∧ (adpcmDecode T code si est).1 ≤ 2047 ∧
    0 ≤ (adpcmDecode T code si est).2 ∧ (adpcmDecode T code si est).2 ≤ 48

/-- `adpcm_encode` (R102): the sign and the greedy bit-planes of the difference, thresholds met at equality; the next
state is the decoder's for that code. -/
def Obligations.AdpcmEncodeQuantises : Prop :=
  ∀ (T : CodecTables) (sample est : Int) (si ss : Nat), T.stepSize[si]? = some ss →
    let d := sample - est
    let m0 := d.natAbs
    let b2 := if m0 ≥ ss then 1 else 0
    let m1 := m0 - b2 * ss
    let b1 := if m1 ≥ ss / 2 then 1 else 0
    let m2 := m1 - b1 * (ss / 2)
    let b0 := if m2 ≥ ss / 4 then 1 else 0
    let code := (adpcmEncode T sample est si).1
    code.toNat = (if d < 0 then 8 else 0) + 4 * b2 + 2 * b1 + b0 ∧
    (adpcmEncode T sample est si).2 = adpcmDecode T code si est

/-- Encoder and decoder stay in lockstep (R107), for any legal tables: on one sample, on every stream of samples from
any state, and on the registers of a block built with any tables, where AENC and then ADEC of the code it answered reach
the same (SI, EST). -/
def Obligations.EncoderDecoderLockstep : Prop :=
  (∀ (T : CodecTables) (sample est : Int) (si : Nat),
    adpcmDecode T (adpcmEncode T sample est si).1 si est = (adpcmEncode T sample est si).2) ∧
  (∀ (T : CodecTables) (xs : List Int) (st : Int × Int),
    decodeFrom T ((encodeSamples T xs st).1.map Prod.fst) st =
      ((encodeSamples T xs st).1.map Prod.snd, (encodeSamples T xs st).2)) ∧
  (∀ (s : State) (s12 : BitVec 12), s.fault = none →
    ∃ t r u, exec (.aenc s12) s = .next t ∧ t.replies = s.replies ++ [r] ∧
      exec (.adec (r.data.extractLsb' 12 4)) s = .next u ∧ u = t) ∧
  (∀ (P : Parameters) (s : State) (s12 : BitVec 12), s.fault = none →
    ∃ t r u, execWith P (.aenc s12) s = .next t ∧ t.replies = s.replies ++ [r] ∧
      execWith P (.adec (r.data.extractLsb' 12 4)) s = .next u ∧ u = t)

/-- The nibble packer over a stream: `pack_step` on each code in order from (0, 0) and then `pack_flush` give the bytes of
`pack_stream`, ceil(n/2) of them, byte j holding codes 2j and 2j+1 (R105). -/
def Obligations.PackStreamIsPackSteps : Prop :=
  ∀ cs : List Code,
    let run := cs.foldl (fun (acc : (Bool × Code) × List Byte) c =>
      ((packStep acc.1 c).1, acc.2 ++ (packStep acc.1 c).2.toList)) ((false, 0#4), [])
    run.2 ++ (packFlush run.1).2.toList = packStream cs ∧
    (packStream cs).length = (cs.length + 1) / 2 ∧
    ∀ j b, (packStream cs)[j]? = some b →
      cs[2 * j]? = some (b.extractLsb' 0 4) ∧
      (2 * j + 1 < cs.length → cs[2 * j + 1]? = some (b.extractLsb' 4 4)) ∧
      (cs.length ≤ 2 * j + 1 → b.extractLsb' 4 4 = 0#4)

/-! ## Codec: commands -/

/-- ARST (R110): its encoding; the codec state to (0,0), the packer emptied with a pending nibble discarded, nothing else,
response 0. -/
def Obligations.ArstStartsAPass : Prop :=
  (∀ arg : Word32, decode (0x10#8 ++ arg) = if arg = 0#32 then some .arst else none) ∧
  ∀ s : State, s.fault = none →
    exec .arst s = .next ({ s with si := 0#6, est := 0#12, nph := false, nlo := 0#4 }.replied 0#32)

/-- ANRW (R111): its encoding; a quotient by 16 rounded toward zero, in the low 12 bits, nothing written; its corner
cases. -/
def Obligations.AnrwNarrowsTowardZero : Prop :=
  (∀ arg : Word32, decode (0x11#8 ++ arg) =
    if arg.extractLsb' 16 16 = 0#16 then some (.anrw (arg.extractLsb' 0 16)) else none) ∧
  (∀ (s : State) (x : BitVec 16), s.fault = none →
    ∃ y : BitVec 12, exec (.anrw x) s = .next (s.replied (0#20 ++ y)) ∧
      y.toInt = if 0 ≤ x.toInt then x.toInt / 16 else -((-x.toInt) / 16)) ∧
  (∀ (s : State), s.fault = none →
    exec (.anrw 0xFFFF#16) s = .next (s.replied 0x000#32) ∧
    exec (.anrw 0xFFF0#16) s = .next (s.replied 0xFFF#32) ∧
    exec (.anrw 0xFFEF#16) s = .next (s.replied 0xFFF#32) ∧
    exec (.anrw 0x8000#16) s = .next (s.replied 0x800#32) ∧
    exec (.anrw 0x7FFF#16) s = .next (s.replied 0x7FF#32) ∧
    exec (.anrw 0x000F#16) s = .next (s.replied 0x000#32) ∧
    exec (.anrw 0xEDCC#16) s = .next (s.replied 0xEDD#32))

/-- ADEC (R112): its encoding; (EST, SI) become what `adpcm_decode` gives, held exactly; the CRSP response carries the new
values and the code; nothing else changes. On the block's tables, and on a block built with any tables (R3). -/
def Obligations.AdecDecodesOneCode : Prop :=
  (∀ arg : Word32, decode (0x12#8 ++ arg) =
    if arg.extractLsb' 4 28 = 0#28 then some (.adec (arg.extractLsb' 0 4)) else none) ∧
  (∀ (s : State) (code : Code), s.fault = none →
    ∃ (e : BitVec 12) (i : BitVec 6),
      exec (.adec code) s =
        .next ({ s with est := e, si := i }.replied (0#8 ++ 0#1 ++ 0#1 ++ i ++ code ++ e)) ∧
      (e.toInt, (i.toNat : Int)) = adpcmDecode Config.codec code s.si.toNat s.est.toInt) ∧
  ∀ (P : Parameters) (s : State) (code : Code), s.fault = none →
    ∃ (e : BitVec 12) (i : BitVec 6),
      execWith P (.adec code) s =
        .next ({ s with est := e, si := i }.replied (0#8 ++ 0#1 ++ 0#1 ++ i ++ code ++ e)) ∧
      (e.toInt, (i.toNat : Int)) = adpcmDecode P.codec code s.si.toNat s.est.toInt

/-- AENC (R113): its encoding; the code of `adpcm_encode` and the state it returns, held exactly; the packer is not
touched. On the block's tables, and on a block built with any tables (R3). -/
def Obligations.AencEncodesOneSample : Prop :=
  (∀ arg : Word32, decode (0x13#8 ++ arg) =
    if arg.extractLsb' 12 20 = 0#20 then some (.aenc (arg.extractLsb' 0 12)) else none) ∧
  (∀ (s : State) (x : BitVec 12), s.fault = none →
    ∃ (c : Code) (e : BitVec 12) (i : BitVec 6),
      exec (.aenc x) s = .next ({ s with est := e, si := i }.replied (0#8 ++ 0#1 ++ 0#1 ++ i ++ c ++ e)) ∧
      (c, e.toInt, (i.toNat : Int)) = adpcmEncode Config.codec x.toInt s.est.toInt s.si.toNat) ∧
  ∀ (P : Parameters) (s : State) (x : BitVec 12), s.fault = none →
    ∃ (c : Code) (e : BitVec 12) (i : BitVec 6),
      execWith P (.aenc x) s = .next ({ s with est := e, si := i }.replied (0#8 ++ 0#1 ++ 0#1 ++ i ++ c ++ e)) ∧
      (c, e.toInt, (i.toNat : Int)) = adpcmEncode P.codec x.toInt s.est.toInt s.si.toNat

/-- APCK (R114): its encoding; the first code of a pair is held, the second completes the byte with the first in its low
nibble; EST and SI are answered unchanged. -/
def Obligations.ApckPacksOneCode : Prop :=
  (∀ arg : Word32, decode (0x14#8 ++ arg) =
    if arg.extractLsb' 4 28 = 0#28 then some (.apck (arg.extractLsb' 0 4)) else none) ∧
  (∀ (s : State) (code : Code), s.fault = none → s.nph = false →
    exec (.apck code) s =
      .next ({ s with nph := true, nlo := code }.replied (0#8 ++ 0#1 ++ 0#1 ++ s.si ++ code ++ s.est))) ∧
  (∀ (s : State) (code : Code), s.fault = none → s.nph = true →
    exec (.apck code) s =
      .next ({ s with nph := false, nlo := 0#4 }.replied
        (code ++ s.nlo ++ 0#1 ++ 1#1 ++ s.si ++ code ++ s.est)))

/-- AFLUSH (R115): its encoding; a pending nibble leaves as a byte with a zero high nibble; with nothing pending nothing
changes and no byte is answered. -/
def Obligations.AflushEndsACodeStream : Prop :=
  (∀ arg : Word32, decode (0x15#8 ++ arg) = if arg = 0#32 then some .aflush else none) ∧
  (∀ s : State, s.fault = none → s.nph = true →
    exec .aflush s =
      .next ({ s with nph := false, nlo := 0#4 }.replied (0#4 ++ s.nlo ++ 0#1 ++ 1#1 ++ s.si ++ 0#4 ++ s.est))) ∧
  (∀ s : State, s.fault = none → s.nph = false →
    exec .aflush s = .next (s.replied (0#8 ++ 0#1 ++ 0#1 ++ s.si ++ 0#4 ++ s.est)))

/-- AENCS (R116): its encoding; it is ANRW, AENC and APCK on the same state: the sample ANRW answers is the one AENC
encodes, the code AENC answers is the one APCK packs, and AENCS answers what APCK does. On the block's tables, and on a
block built with any tables (R3). -/
def Obligations.AencsIsNarrowEncodePack : Prop :=
  (∀ arg : Word32, decode (0x16#8 ++ arg) =
    if arg.extractLsb' 16 16 = 0#16 then some (.aencs (arg.extractLsb' 0 16)) else none) ∧
  (∀ (s : State) (x : BitVec 16), s.fault = none →
    ∃ t1 t2 t3 t r1 r2 r3,
      exec (.anrw x) s = .next t1 ∧ t1.replies = s.replies ++ [r1] ∧
      exec (.aenc (r1.data.extractLsb' 0 12)) t1 = .next t2 ∧ t2.replies = t1.replies ++ [r2] ∧
      exec (.apck (r2.data.extractLsb' 12 4)) t2 = .next t3 ∧ t3.replies = t2.replies ++ [r3] ∧
      exec (.aencs x) s = .next t ∧ t = { t3 with replies := s.replies ++ [r3] }) ∧
  ∀ (P : Parameters) (s : State) (x : BitVec 16), s.fault = none →
    ∃ t1 t2 t3 t r1 r2 r3,
      execWith P (.anrw x) s = .next t1 ∧ t1.replies = s.replies ++ [r1] ∧
      execWith P (.aenc (r1.data.extractLsb' 0 12)) t1 = .next t2 ∧ t2.replies = t1.replies ++ [r2] ∧
      execWith P (.apck (r2.data.extractLsb' 12 4)) t2 = .next t3 ∧ t3.replies = t2.replies ++ [r3] ∧
      execWith P (.aencs x) s = .next t ∧ t = { t3 with replies := s.replies ++ [r3] }

/-- ADECB (R117): its encoding; it is ADEC of the low nibble and then of the high nibble, and answers both estimates and the
final index. On the block's tables, and on a block built with any tables (R3). -/
def Obligations.AdecbIsTwoAdecs : Prop :=
  (∀ arg : Word32, decode (0x17#8 ++ arg) =
    if arg.extractLsb' 8 24 = 0#24 then some (.adecb (arg.extractLsb' 0 8)) else none) ∧
  (∀ (s : State) (byte : Byte), s.fault = none →
    ∃ t1 t2 t, exec (.adec (byte.extractLsb' 0 4)) s = .next t1 ∧ exec (.adec (byte.extractLsb' 4 4)) t1 = .next t2 ∧
      exec (.adecb byte) s = .next t ∧
      t = { t2 with replies := s.replies ++ [⟨0#4, 0#2 ++ t2.si ++ t2.est ++ t1.est⟩] }) ∧
  ∀ (P : Parameters) (s : State) (byte : Byte), s.fault = none →
    ∃ t1 t2 t, execWith P (.adec (byte.extractLsb' 0 4)) s = .next t1 ∧
      execWith P (.adec (byte.extractLsb' 4 4)) t1 = .next t2 ∧ execWith P (.adecb byte) s = .next t ∧
      t = { t2 with replies := s.replies ++ [⟨0#4, 0#2 ++ t2.si ++ t2.est ++ t1.est⟩] }

/-! ## Resampler -/

/-- RRST (R134): its encoding; ACC to 0, nothing else, response 0, configured or not. -/
def Obligations.RrstClearsTheAccumulator : Prop :=
  (∀ arg : Word32, decode (0x20#8 ++ arg) = if arg = 0#32 then some .rrst else none) ∧
  ∀ s : State, s.fault = none → exec .rrst s = .next ({ s with acc := 0#25 }.replied 0#32)

/-- DMIX (R131, R132): its encoding, every operand legal; half the exact sum rounded toward zero, in the low 16 bits,
symmetric; nothing written; its corner cases. -/
def Obligations.DmixAveragesTowardZero : Prop :=
  (∀ arg : Word32, decode (0x21#8 ++ arg) = some (.dmix (arg.extractLsb' 16 16) (arg.extractLsb' 0 16))) ∧
  (∀ (s : State) (a b : BitVec 16), s.fault = none →
    ∃ y : BitVec 16, exec (.dmix a b) s = .next (s.replied (0#16 ++ y)) ∧
      y.toInt = (if 0 ≤ a.toInt + b.toInt then (a.toInt + b.toInt) / 2 else -((-(a.toInt + b.toInt)) / 2))) ∧
  (∀ a b : Int, downmix a b = downmix b a) ∧
  (∀ s : State, s.fault = none →
    exec (.dmix 0x8000#16 0x8000#16) s = .next (s.replied 0x8000#32) ∧
    exec (.dmix 0x7FFF#16 0x7FFF#16) s = .next (s.replied 0x7FFF#32) ∧
    exec (.dmix 0x7FFF#16 0x8000#16) s = .next (s.replied 0#32) ∧
    exec (.dmix 0xFFFF#16 0x0000#16) s = .next (s.replied 0#32) ∧
    exec (.dmix 0xFFFF#16 0xFFFE#16) s = .next (s.replied 0xFFFF#32) ∧
    exec (.dmix 0x0001#16 0x0002#16) s = .next (s.replied 1#32) ∧
    exec (.dmix 0xFFFD#16 0xFFFC#16) s = .next (s.replied 0xFFFD#32))

/-- RSMP (R133, R135): its encoding; E_PARAM, with ACC kept, when a frequency is unconfigured or FOUT > FIN; otherwise one
tick, emitting the operand bits when the sum reaches FIN and dropping them when it does not, ACC held exactly and
below FIN again when it was. -/
def Obligations.RsmpTicks : Prop :=
  (∀ arg : Word32, decode (0x22#8 ++ arg) =
    if arg.extractLsb' 16 16 = 0#16 then some (.rsmp (arg.extractLsb' 0 16)) else none) ∧
  (∀ (s : State) (x : BitVec 16), s.fault = none →
    (s.fin = 0#24 ∨ s.fout = 0#24 ∨ s.fin.toNat < s.fout.toNat) →
    exec (.rsmp x) s = .next (s.raised .param 2#4 0x22#8 (0#16 ++ x))) ∧
  (∀ (s : State) (x : BitVec 16), s.fault = none → s.fin ≠ 0#24 → s.fout ≠ 0#24 → s.fout.toNat ≤ s.fin.toNat →
    s.acc.toNat < s.fin.toNat →
    (s.fin.toNat ≤ s.acc.toNat + s.fout.toNat →
      ∃ a : BitVec 25, exec (.rsmp x) s = .next ({ s with acc := a }.replied (0#15 ++ 1#1 ++ x)) ∧
        a.toNat + s.fin.toNat = s.acc.toNat + s.fout.toNat ∧ a.toNat < s.fin.toNat) ∧
    (s.acc.toNat + s.fout.toNat < s.fin.toNat →
      ∃ a : BitVec 25, exec (.rsmp x) s = .next ({ s with acc := a }.replied 0#32) ∧
        a.toNat = s.acc.toNat + s.fout.toNat ∧ a.toNat < s.fin.toNat))

/-- The drift-free count (R136): after N ticks from 0 exactly `floor(N*fout/fin)` samples are kept, the accumulator is
`(N*fout) mod fin`, and tick i keeps its sample exactly when `floor((i+1)*fout/fin) > floor(i*fout/fin)`. -/
def Obligations.ResampleCountIsExact : Prop :=
  ∀ (xs : List (BitVec 16)) (fin fout : Nat), 1 ≤ fout → fout ≤ fin →
    (resampleStream xs fin fout).1.length = xs.length * fout / fin ∧
    (resampleStream xs fin fout).2 = xs.length * fout % fin ∧
    (resampleStream xs fin fout).1 =
      (xs.zipIdx.filter fun p => decide (p.2 * fout / fin < (p.2 + 1) * fout / fin)).map Prod.fst

/-! ## Pixel unit -/

/-- `pack_color` in integers (R141, R142): green, red, blue from the top, each without its low three bits; bit 0 is green's
bit 2 in intensity mode, and in default mode 1 exactly when a 5-bit field is nonzero, so (7,7,7) packs to 0. -/
def Obligations.PackColorLayout : Prop :=
  (∀ r g b : BitVec 8,
    let field := r.toNat / 8 * 64 + g.toNat / 8 * 2048 + b.toNat / 8 * 2
    (packColor r g b .intensityMode).toNat = field + (if 4 ≤ g.toNat % 8 then 1 else 0) ∧
    (packColor r g b .defaultMode).toNat = field + (if field = 0 then 0 else 1)) ∧
  packColor 7#8 7#8 7#8 .defaultMode = 0x0000#16

/-- The fixed points of the conversion (R143): black and white in both modes; a default-mode colour is odd exactly when
some higher bit is set; in intensity mode every 16-bit value is reached. -/
def Obligations.PackColorFixedPoints : Prop :=
  (∀ m, packColor 0#8 0#8 0#8 m = 0x0000#16 ∧ packColor 255#8 255#8 255#8 m = 0xFFFF#16) ∧
  (∀ r g b : BitVec 8, packColor r g b .defaultMode ≠ 0x0001#16 ∧
    ((packColor r g b .defaultMode).getLsbD 0 = true ↔ 2 ≤ (packColor r g b .defaultMode).toNat)) ∧
  (∀ v : BitVec 16, ∃ r g b : BitVec 8, packColor r g b .intensityMode = v)

/-- PCONV (R144): its encoding; the packed colour of the operand under AUXM as it stands, in every raster state; nothing
written. -/
def Obligations.PconvConverts : Prop :=
  (∀ arg : Word32, decode (0x30#8 ++ arg) =
    if arg.extractLsb' 24 8 = 0#8
    then some (.pconv (arg.extractLsb' 16 8) (arg.extractLsb' 8 8) (arg.extractLsb' 0 8)) else none) ∧
  ∀ (s : State) (r g b : BitVec 8), s.fault = none →
    exec (.pconv r g b) s = .next (s.replied (0#16 ++ packColor r g b s.auxm))

/-- PBEGIN (R145, R151): its encoding; its four checks in order; else PBYTES, PLIM, PCUR and PST as the rule says, held
exactly, every byte of the active part 0x00 and no other byte with a value. -/
def Obligations.PbeginOpensARaster : Prop :=
  (∀ arg : Word32, decode (0x31#8 ++ arg) =
    if arg.extractLsb' 28 4 = 0#4 ∧ arg.extractLsb' 12 4 = 0#4
    then some (.pbegin (arg.extractLsb' 16 12) (arg.extractLsb' 0 12)) else none) ∧
  ∀ (s : State) (w h : BitVec 12), s.fault = none →
    (s.pst = .opened →
      exec (.pbegin w h) s = .next (s.raised .seq 4#4 0x31#8 (0#4 ++ w ++ 0#4 ++ h))) ∧
    (s.pst ≠ .opened → ¬ s.ViewConfigured →
      exec (.pbegin w h) s = .next (s.raised .param 2#4 0x31#8 (0#4 ++ w ++ 0#4 ++ h))) ∧
    (s.pst ≠ .opened → s.ViewConfigured → w ≠ s.vieww →
      exec (.pbegin w h) s = .next (s.raised .format 3#4 0x31#8 (0#4 ++ w ++ 0#4 ++ h))) ∧
    (s.pst ≠ .opened → s.ViewConfigured → w = s.vieww → s.viewh.toNat < h.toNat →
      exec (.pbegin w h) s = .next (s.raised .param 2#4 0x31#8 (0#4 ++ w ++ 0#4 ++ h))) ∧
    (s.pst ≠ .opened → s.ViewConfigured → w = s.vieww → h.toNat ≤ s.viewh.toNat →
      ∃ (n : BitVec 26) (l : BitVec 25) (m : Memory) (t : State), exec (.pbegin w h) s = .next t ∧
        t = { s with pbytes := n, pixbuf := m, plim := l, pcur := 0#25, pst := .opened }.replied (0#6 ++ n) ∧
        n.toNat = 2 * s.vieww.toNat * s.viewh.toNat ∧ l.toNat = w.toNat * h.toNat ∧ m.wf ∧
        ∀ a, t.memRead a = if a < n.toNat then some 0x00#8 else none)

/-- PPIX (R147): its encoding; its two E_SEQ checks; else the packed colour stored most significant byte first at byte
address `2*PCUR`, every other byte as it was, PCUR one more (held exactly), and the colour answered. -/
def Obligations.PpixStoresAPixel : Prop :=
  (∀ arg : Word32, decode (0x32#8 ++ arg) =
    if arg.extractLsb' 24 8 = 0#8
    then some (.ppix (arg.extractLsb' 16 8) (arg.extractLsb' 8 8) (arg.extractLsb' 0 8)) else none) ∧
  ∀ (s : State) (r g b : BitVec 8), s.fault = none →
    (s.pst ≠ .opened ∨ s.plim.toNat ≤ s.pcur.toNat →
      exec (.ppix r g b) s = .next (s.raised .seq 4#4 0x32#8 (0#8 ++ r ++ g ++ b))) ∧
    (s.pst = .opened → s.pcur.toNat < s.plim.toNat → s.pixbuf.wf →
      ∃ (p : BitVec 25) (m : Memory) (t : State), exec (.ppix r g b) s = .next t ∧
        t = { s with pixbuf := m, pcur := p }.replied (0#16 ++ packColor r g b s.auxm) ∧
        p.toNat = s.pcur.toNat + 1 ∧ m.wf ∧
        ∀ a, t.memRead a =
          if a < s.pbytes.toNat ∧ a = 2 * s.pcur.toNat then some ((packColor r g b s.auxm).extractLsb' 8 8)
          else if a < s.pbytes.toNat ∧ a = 2 * s.pcur.toNat + 1 then some ((packColor r g b s.auxm).extractLsb' 0 8)
          else s.memRead a)

/-- PEND (R148): its encoding; its two E_SEQ checks; else PST is DONE, the count is answered and the buffer stays
readable as it was. -/
def Obligations.PendClosesTheRaster : Prop :=
  (∀ arg : Word32, decode (0x33#8 ++ arg) = if arg = 0#32 then some .pend else none) ∧
  ∀ s : State, s.fault = none →
    (s.pst ≠ .opened ∨ s.pcur ≠ s.plim → exec .pend s = .next (s.raised .seq 4#4 0x33#8 0#32)) ∧
    (s.pst = .opened → s.pcur = s.plim →
      ∃ t, exec .pend s = .next t ∧ t = { s with pst := .done }.replied (0#7 ++ s.pcur) ∧
        ∀ a, t.memRead a = s.memRead a)

/-- PRD (R149): its encoding; E_SEQ before the first raster, then E_PARAM outside the active part; else the byte at the
address, OPEN or DONE, nothing written. -/
def Obligations.PrdReadsOneByte : Prop :=
  (∀ arg : Word32, decode (0x34#8 ++ arg) =
    if arg.extractLsb' 26 6 = 0#6 then some (.prd (arg.extractLsb' 0 26)) else none) ∧
  ∀ (s : State) (addr : BitVec 26), s.fault = none →
    (s.pst = .idle → exec (.prd addr) s = .next (s.raised .seq 4#4 0x34#8 (0#6 ++ addr))) ∧
    (s.pst ≠ .idle → s.pbytes.toNat ≤ addr.toNat →
      exec (.prd addr) s = .next (s.raised .param 2#4 0x34#8 (0#6 ++ addr))) ∧
    (s.pst ≠ .idle → addr.toNat < s.pbytes.toNat →
      ∃ b, s.memRead addr.toNat = some b ∧ exec (.prd addr) s = .next (s.replied (0#24 ++ b)))

/-! ## Frame timing unit -/

/-- FVS (R161, R162, R167, R171): its encoding; for any tables, E_PARAM outside them, else the calibrated byte count where
there is one, else the product divided and rounded down; on the block's own tables the count, below 2^24 by R171, is held
exactly and nothing is written. (NRC and NFPS may be 256, and then no index is outside the block's tables.) -/
def Obligations.FvsLooksUpOrFallsBack : Prop :=
  (∀ arg : Word32, decode (0x40#8 ++ arg) =
    if arg.extractLsb' 16 16 = 0#16 then some (.fvs (arg.extractLsb' 8 8) (arg.extractLsb' 0 8)) else none) ∧
  (∀ (T : TimingTables) (s : State) (rc k : BitVec 8),
    (T.nrc ≤ rc.toNat ∨ T.nfps ≤ k.toNat → ruleFvs T rc k s = .error .param) ∧
    (rc.toNat < T.nrc → k.toNat < T.nfps →
      (∀ c, T.cal rc.toNat k.toNat = some c → ruleFvs T rc k s = .ok (s, BitVec.ofNat 32 c)) ∧
      (T.cal rc.toNat k.toNat = none →
        ruleFvs T rc k s = .ok (s, BitVec.ofNat 32 (T.byterate rc.toNat * T.fpsDen k.toNat / T.fpsNum k.toNat))))) ∧
  ∀ (s : State) (rc k : BitVec 8), s.fault = none →
    (timing.nrc ≤ rc.toNat ∨ timing.nfps ≤ k.toNat →
      exec (.fvs rc k) s = .next (s.raised .param 2#4 0x40#8 (0#16 ++ rc ++ k))) ∧
    (rc.toNat < timing.nrc → k.toNat < timing.nfps →
      ∃ v : BitVec 24, exec (.fvs rc k) s = .next (s.replied (0#8 ++ v)) ∧
        ruleFvs timing rc k s = .ok (s, 0#8 ++ v) ∧
        (∀ c, timing.cal rc.toNat k.toNat = some c → v.toNat = c) ∧
        (timing.cal rc.toNat k.toNat = none →
          v.toNat = timing.byterate rc.toNat * timing.fpsDen k.toNat / timing.fpsNum k.toNat))

/-- The two values the source fixes (R163): some class and a frame rate of 15 give 520, some class and a frame rate of 30
give 4266, and FVS answers them. -/
def Obligations.FvsFixedPoints : Prop :=
  ∀ s : State, s.fault = none →
    (∃ rc k : BitVec 8, rc.toNat < timing.nrc ∧ k.toNat < timing.nfps ∧
      timing.fpsNum k.toNat = 15 * timing.fpsDen k.toNat ∧ exec (.fvs rc k) s = .next (s.replied 520#32)) ∧
    (∃ rc k : BitVec 8, rc.toNat < timing.nrc ∧ k.toNat < timing.nfps ∧
      timing.fpsNum k.toNat = 30 * timing.fpsDen k.toNat ∧ exec (.fvs rc k) s = .next (s.replied 4266#32))

/-- `roundup1024` is the least multiple of 1024 at or above its argument (R164), and `frame_size` is a positive multiple
(R165); the corner cases of FSZ at a 128 by 96 view. -/
def Obligations.FrameSizeRoundsUp : Prop :=
  (∀ x : Nat, x ≤ roundup1024 x ∧ 1024 ∣ roundup1024 x ∧ ∀ m, 1024 ∣ m → x ≤ m → roundup1024 x ≤ m) ∧
  (∀ ppb v : Nat, frameSize ppb v = roundup1024 (16 + ppb + 2 + v) ∧ 0 < frameSize ppb v ∧ 1024 ∣ frameSize ppb v) ∧
  roundup1024 0 = 0 ∧ frameSize 24576 0 = 25600 ∧ frameSize 24576 1006 = 25600 ∧ frameSize 24576 1007 = 26624

/-- FSZ (R166, R168): its encoding; E_PARAM while the view is unconfigured; else the frame size of the view as it stands
when FSZ executes, without wrap-around; nothing written. -/
def Obligations.FszAnswersTheFrameSize : Prop :=
  (∀ arg : Word32, decode (0x41#8 ++ arg) =
    if arg.extractLsb' 24 8 = 0#8 then some (.fsz (arg.extractLsb' 0 24)) else none) ∧
  ∀ (s : State) (v : BitVec 24), s.fault = none →
    (¬ s.ViewConfigured → exec (.fsz v) s = .next (s.raised .param 2#4 0x41#8 (0#8 ++ v))) ∧
    (s.ViewConfigured →
      ∃ d : Word32, exec (.fsz v) s = .next (s.replied d) ∧
        d.toNat = frameSize (2 * s.vieww.toNat * s.viewh.toNat) v.toNat)

/-- FRC (R169): its encoding; for any tables, E_PARAM outside them, else the class's code; on the block's own tables the
same, nothing written. -/
def Obligations.FrcAnswersTheRateCode : Prop :=
  (∀ arg : Word32, decode (0x42#8 ++ arg) =
    if arg.extractLsb' 8 24 = 0#24 then some (.frc (arg.extractLsb' 0 8)) else none) ∧
  (∀ (T : TimingTables) (s : State) (rc : BitVec 8),
    (T.nrc ≤ rc.toNat → ruleFrc T rc s = .error .param) ∧
    (rc.toNat < T.nrc → ruleFrc T rc s = .ok (s, T.ratecode rc.toNat))) ∧
  ∀ (s : State) (rc : BitVec 8), s.fault = none →
    (timing.nrc ≤ rc.toNat → exec (.frc rc) s = .next (s.raised .param 2#4 0x42#8 (0#24 ++ rc))) ∧
    (rc.toNat < timing.nrc → exec (.frc rc) s = .next (s.replied (timing.ratecode rc.toNat)))

/-- FDUR (R170): its encoding; for any tables, E_PARAM outside them, else the first field for `sel = 0` and the second for
`sel = 1`; on the block's own tables the same, nothing written. -/
def Obligations.FdurAnswersADurationField : Prop :=
  (∀ arg : Word32, decode (0x43#8 ++ arg) =
    if arg.extractLsb' 9 23 = 0#23 then some (.fdur (arg.extractLsb' 8 1) (arg.extractLsb' 0 8)) else none) ∧
  (∀ (T : TimingTables) (s : State) (k : BitVec 8),
    (∀ sel, T.nfps ≤ k.toNat → ruleFdur T sel k s = .error .param) ∧
    (k.toNat < T.nfps → ruleFdur T 0#1 k s = .ok (s, T.fdurA k.toNat) ∧ ruleFdur T 1#1 k s = .ok (s, T.fdurB k.toNat))) ∧
  ∀ (s : State) (k : BitVec 8), s.fault = none →
    (∀ sel, timing.nfps ≤ k.toNat →
      exec (.fdur sel k) s = .next (s.raised .param 2#4 0x43#8 (0#23 ++ sel ++ k))) ∧
    (k.toNat < timing.nfps → exec (.fdur 0#1 k) s = .next (s.replied (timing.fdurA k.toNat)) ∧
      exec (.fdur 1#1 k) s = .next (s.replied (timing.fdurB k.toNat)))

/-! ## Whole streams -/

/-- ENCSTREAM computes `encode_stream` (R118): on an unlatched block the macro's commands all complete, the bytes the host
collects are the function's, ceil(n/2) of them for n samples, the registers hold its final state, and the packer is
empty. On the block's tables, and on a block built with any tables (R3). -/
def Obligations.EncstreamComputesEncodeStream : Prop :=
  (∀ (s : State) (xs : List (BitVec 16)), s.fault = none →
    ∃ t rs, execAll exec (macroEncstream xs) s = .next t ∧ t.replies = s.replies ++ rs ∧
      rs.length = xs.length + 2 ∧ (∀ r ∈ rs, r.status = 0#4) ∧
      collectBytes rs = (encodeStream Config.codec xs).1 ∧
      (collectBytes rs).length = (xs.length + 1) / 2 ∧
      (t.est.toInt, (t.si.toNat : Int)) = (encodeStream Config.codec xs).2 ∧ t.nph = false) ∧
  ∀ (P : Parameters) (s : State) (xs : List (BitVec 16)), s.fault = none →
    ∃ t rs, execAll (execWith P) (macroEncstream xs) s = .next t ∧ t.replies = s.replies ++ rs ∧
      rs.length = xs.length + 2 ∧ (∀ r ∈ rs, r.status = 0#4) ∧
      collectBytes rs = (encodeStream P.codec xs).1 ∧
      (collectBytes rs).length = (xs.length + 1) / 2 ∧
      (t.est.toInt, (t.si.toNat : Int)) = (encodeStream P.codec xs).2 ∧ t.nph = false

/-- DECSTREAM computes `decode_stream` (R119): on an unlatched block the estimates the host collects are the function's and
the registers hold its final state, on the block's tables and on a block built with any tables (R3); and decoding what
`encode_stream` packed reproduces the encoder's estimates and final state, for any legal tables. -/
def Obligations.DecstreamComputesDecodeStream : Prop :=
  (∀ (s : State) (bytes : List Byte) (n : Nat), s.fault = none → bytes.length = (n + 1) / 2 →
    ∃ t rs, execAll exec (macroDecstream bytes n) s = .next t ∧ t.replies = s.replies ++ rs ∧
      (∀ r ∈ rs, r.status = 0#4) ∧
      collectEstimates (macroDecstream bytes n) rs = (decodeStream Config.codec bytes n).1 ∧
      (t.est.toInt, (t.si.toNat : Int)) = (decodeStream Config.codec bytes n).2) ∧
  (∀ (P : Parameters) (s : State) (bytes : List Byte) (n : Nat), s.fault = none → bytes.length = (n + 1) / 2 →
    ∃ t rs, execAll (execWith P) (macroDecstream bytes n) s = .next t ∧ t.replies = s.replies ++ rs ∧
      (∀ r ∈ rs, r.status = 0#4) ∧
      collectEstimates (macroDecstream bytes n) rs = (decodeStream P.codec bytes n).1 ∧
      (t.est.toInt, (t.si.toNat : Int)) = (decodeStream P.codec bytes n).2) ∧
  (∀ (T : CodecTables) (xs : List (BitVec 16)),
    decodeStream T (encodeStream T xs).1 xs.length = ((encodePass T xs).1.map Prod.snd, (encodeStream T xs).2))

/-- RESAMPLE computes `resample_stream` (R136, last sentence), on an unlatched block with `1 ≤ FOUT ≤ FIN`. -/
def Obligations.ResampleComputesResampleStream : Prop :=
  ∀ (s : State) (xs : List (BitVec 16)), s.fault = none → s.fin ≠ 0#24 → s.fout ≠ 0#24 →
    s.fout.toNat ≤ s.fin.toNat →
    ∃ t rs, execAll exec (macroResample xs) s = .next t ∧ t.replies = s.replies ++ rs ∧ (∀ r ∈ rs, r.status = 0#4) ∧
      collectSamples rs = (resampleStream xs s.fin.toNat s.fout.toNat).1 ∧
      t.acc.toNat = (resampleStream xs s.fin.toNat s.fout.toNat).2

/-- PACKRASTER leaves `pack_raster` in the active part of PIXBUF (R150; short rasters R146): with no raster open, the view
configured, `w` its width, `h` at most its height and exactly `w*h` pixels, every command completes, PBYTES is the length
of the function's bytes, and PIXBUF holds them. -/
def Obligations.PackrasterFillsTheBuffer : Prop :=
  ∀ (s : State) (h : BitVec 12) (ps : List Rgb), s.fault = none → s.pst ≠ .opened → s.ViewConfigured →
    h.toNat ≤ s.viewh.toNat → ps.length = s.vieww.toNat * h.toNat →
    ∃ t rs, execAll exec (macroPackraster s.vieww h ps) s = .next t ∧ t.replies = s.replies ++ rs ∧
      (∀ r ∈ rs, r.status = 0#4) ∧ t.pst = .done ∧
      t.pbytes.toNat = (packRaster ps s.vieww.toNat s.viewh.toNat s.auxm).length ∧
      ∀ a, t.memRead a = (packRaster ps s.vieww.toNat s.viewh.toNat s.auxm)[a]?
end

