-- ==== Sys2Proof/Laws/Decode.lean ====
section
/-! SUPPORT. The tables of the decoder: each is the inverse of the encoder's side of it. -/

namespace Sys2Proof

theorem Opcode.ofCode_code (o : Opcode) : Opcode.ofCode o.code = some o := by
  cases o <;> decide

/-- Only an opcode's own code selects it (R73). -/
theorem Opcode.code_of_ofCode {op : BitVec 8} {o : Opcode} (h : Opcode.ofCode op = some o) : o.code = op := by
  have := List.find?_some h
  simpa using this

theorem Reg.ofIndex_index (r : Reg) : Reg.ofIndex r.index = some r := by
  cases r <;> decide

/-- Only a register's own index names it (R40). -/
theorem Reg.index_of_ofIndex {idx : BitVec 8} {r : Reg} (h : Reg.ofIndex idx = some r) : r.index = idx := by
  have := List.find?_some h
  simpa using this

/-- The opcode of `op ‖ arg`. -/
theorem op_append (op : BitVec 8) (arg : Word32) : CommandWord.op (op ++ arg) = op := by
  unfold CommandWord.op
  ext i hi
  rw [BitVec.getElem_extractLsb', BitVec.getLsbD_append]
  simp [BitVec.getLsbD_eq_getElem hi]

/-- The operand of `op ‖ arg`. -/
theorem arg_append (op : BitVec 8) (arg : Word32) : CommandWord.arg (op ++ arg) = arg := by
  unfold CommandWord.arg
  ext i hi
  rw [BitVec.getElem_extractLsb', BitVec.getLsbD_append]
  simp [hi]

@[simp] theorem op_encode (i : Instr) : CommandWord.op (encode i) = i.opcode.code := op_append _ _

@[simp] theorem arg_encode (i : Instr) : CommandWord.arg (encode i) = i.arg := arg_append _ _

/-- A command word is its opcode and its operand. -/
theorem op_arg (w : CommandWord) : CommandWord.op w ++ CommandWord.arg w = w := by
  unfold CommandWord.op CommandWord.arg
  apply BitVec.eq_of_getLsbD_eq
  intro i hi
  rw [BitVec.getLsbD_append]
  by_cases h : i < 32
  · simp [h]
  · simp [h, show 32 + (i - 32) = i by omega]
    omega

/-- No command sets a reserved operand bit (R74, R75). -/
theorem arg_reserved (i : Instr) : i.arg &&& i.opcode.reserved = 0#32 := by
  cases i
  all_goals
    apply BitVec.eq_of_getLsbD_eq
    intro k hk
    simp only [BitVec.getLsbD_and, BitVec.getLsbD_append, Instr.arg, Instr.opcode, Opcode.reserved]
    interval_cases k <;> simp

/-- Everything an accepted word tells (R90). -/
theorem decode_eq_some {w : CommandWord} {i : Instr} (h : decode w = some i) :
    ∃ o, Opcode.ofCode (CommandWord.op w) = some o ∧ CommandWord.arg w &&& o.reserved = 0#32 ∧
      i = o.operands (CommandWord.arg w) ∧ indexAccepted i = true := by
  unfold decode decodeOrReason at h
  cases ho : Opcode.ofCode (CommandWord.op w) with
  | none => simp [ho, Except.toOption] at h
  | some o =>
    simp only [ho] at h
    by_cases hr : CommandWord.arg w &&& o.reserved = 0#32
    · by_cases hi : indexAccepted (o.operands (CommandWord.arg w)) = true
      · simp only [hr, hi, if_true, Except.toOption, Option.some.injEq] at h
        exact ⟨o, rfl, hr, h.symm, h ▸ hi⟩
      · simp [hr, hi, Except.toOption] at h
    · simp [hr, Except.toOption] at h

end Sys2Proof
end

