-- ==== Sys2Proof/Laws/Memory.lean ====
section
/-! SUPPORT. The laws of the buffer memory: what a write does to every read, and that every operation keeps the canonical
form. -/

namespace Sys2Proof.Machine

/-- An address below every entry reads as unlisted. -/
theorem readCells_of_lt {l : List Host.Cell} {a : Nat} (h : ∀ c ∈ l, a < c.1) : readCells l a = Memory.unlisted := by
  induction l with
  | nil => rfl
  | cons c rest ih =>
    have hc := h c (by simp)
    simp only [readCells, if_neg (show ¬ c.1 = a by omega)]
    exact ih fun d hd => h d (by simp [hd])

/-- A write leaves every other address alone, whatever the list. -/
theorem readCells_writeCells_other (l : List Host.Cell) {a a' : Nat} (b : Byte) (h : a' ≠ a) :
    readCells (writeCells l a b) a' = readCells l a' := by
  induction l with
  | nil =>
    unfold writeCells
    split
    · rfl
    · simp [readCells, Ne.symm h]
  | cons c rest ih =>
    unfold writeCells
    by_cases hlt : c.1 < a
    · simp only [if_pos hlt, readCells, ih]
    · simp only [if_neg hlt]
      by_cases heq : c.1 = a
      · have hne : c.1 ≠ a' := by omega
        by_cases hb : b = Memory.unlisted <;> simp [heq, hb, readCells, Ne.symm h]
      · by_cases hb : b = Memory.unlisted <;> simp [heq, hb, readCells, Ne.symm h]

/-- A write is read back, on a list in canonical order. -/
theorem readCells_writeCells_same {l : List Host.Cell} (a : Nat) (b : Byte)
    (h : l.Pairwise fun c d => c.1 < d.1) : readCells (writeCells l a b) a = b := by
  induction l with
  | nil =>
    unfold writeCells
    split
    · simp_all [readCells]
    · simp [readCells]
  | cons c rest ih =>
    obtain ⟨hc, hrest⟩ := List.pairwise_cons.1 h
    unfold writeCells
    by_cases hlt : c.1 < a
    · simp only [if_pos hlt, readCells, if_neg (show ¬ c.1 = a by omega)]
      exact ih hrest
    · simp only [if_neg hlt]
      by_cases hb : b = Memory.unlisted
      · subst hb
        by_cases heq : c.1 = a
        · simp only [heq, if_true]
          exact readCells_of_lt fun d hd => heq ▸ hc d hd
        · simp only [heq, if_false, if_true]
          refine readCells_of_lt fun d hd => ?_
          rcases List.mem_cons.1 hd with rfl | hd
          · omega
          · have := hc d hd; omega
      · simp [hb, readCells]

/-- Every entry after a write is an old entry or the one written. -/
theorem mem_writeCells {l : List Host.Cell} {a : Nat} {b : Byte} {c : Host.Cell} (h : c ∈ writeCells l a b) :
    c ∈ l ∨ (c = (a, b) ∧ b ≠ Memory.unlisted) := by
  induction l with
  | nil =>
    unfold writeCells at h
    split at h
    · simp at h
    · rename_i hb
      right
      exact ⟨by simpa using h, hb⟩
  | cons d rest ih =>
    unfold writeCells at h
    by_cases hlt : d.1 < a
    · simp only [if_pos hlt, List.mem_cons] at h
      rcases h with rfl | h
      · simp
      · rcases ih h with h | h
        · simp [h]
        · exact .inr h
    · simp only [if_neg hlt] at h
      by_cases hb : b = Memory.unlisted <;> by_cases heq : d.1 = a <;>
        simp only [hb, heq, if_true, if_false, List.mem_cons] at h ⊢
      all_goals tauto

/-- A write keeps the addresses strictly rising. -/
theorem pairwise_writeCells {l : List Host.Cell} (a : Nat) (b : Byte) (h : l.Pairwise fun c d => c.1 < d.1) :
    (writeCells l a b).Pairwise fun c d => c.1 < d.1 := by
  induction l with
  | nil =>
    unfold writeCells
    split <;> simp
  | cons c rest ih =>
    obtain ⟨hc, hrest⟩ := List.pairwise_cons.1 h
    unfold writeCells
    by_cases hlt : c.1 < a
    · simp only [if_pos hlt]
      refine List.pairwise_cons.2 ⟨fun d hd => ?_, ih hrest⟩
      rcases mem_writeCells hd with hd | ⟨rfl, _⟩
      · exact hc d hd
      · exact hlt
    · simp only [if_neg hlt]
      by_cases heq : c.1 = a
      · simp only [heq, if_true]
        split
        · exact hrest
        · exact List.pairwise_cons.2 ⟨fun d hd => heq ▸ hc d hd, hrest⟩
      · simp only [heq, if_false]
        split
        · exact h
        · refine List.pairwise_cons.2 ⟨fun d hd => ?_, h⟩
          rcases List.mem_cons.1 hd with rfl | hd
          · show a < d.1
            omega
          · have := hc d hd
            show a < d.1
            omega

/-! ## The memory operations -/

@[simp] theorem Memory.cleared_read (a : Nat) : Memory.cleared.read a = 0x00#8 := rfl

theorem Memory.cleared_wf : Memory.cleared.wf := by simp [Memory.wf, Memory.cleared]

theorem Memory.write_wf {m : Memory} (h : m.wf) (a : Nat) (b : Byte) : (m.write a b).wf := by
  refine ⟨pairwise_writeCells a b h.1, fun c hc => ?_⟩
  rcases mem_writeCells hc with hc | ⟨rfl, hb⟩
  · exact h.2 c hc
  · exact hb

theorem Memory.write16_wf {m : Memory} (h : m.wf) (a : Nat) (v : BitVec 16) : (m.write16 a v).wf :=
  Memory.write_wf (Memory.write_wf h _ _) _ _

theorem Memory.read_write_other (m : Memory) {a a' : Nat} (b : Byte) (h : a' ≠ a) :
    (m.write a b).read a' = m.read a' :=
  readCells_writeCells_other m.cells b h

theorem Memory.read_write_same {m : Memory} (h : m.wf) (a : Nat) (b : Byte) : (m.write a b).read a = b :=
  readCells_writeCells_same a b h.1

/-- What a big-endian 2-byte write does to every read (R56). -/
theorem Memory.read_write16 {m : Memory} (h : m.wf) (a : Nat) (v : BitVec 16) (a' : Nat) :
    (m.write16 a v).read a' =
      if a' = a then v.extractLsb' 8 8 else if a' = a + 1 then v.extractLsb' 0 8 else m.read a' := by
  unfold Memory.write16
  by_cases h1 : a' = a + 1
  · subst h1
    simp [Memory.read_write_same (Memory.write_wf h _ _)]
  · rw [Memory.read_write_other _ _ h1]
    by_cases h0 : a' = a
    · subst h0
      simp [Memory.read_write_same h]
    · simp [h0, h1, Memory.read_write_other]

/-- A 2-byte write leaves every other byte alone, whatever the memory. -/
theorem Memory.read_write16_other (m : Memory) (a : Nat) (v : BitVec 16) {a' : Nat} (h0 : a' ≠ a) (h1 : a' ≠ a + 1) :
    (m.write16 a v).read a' = m.read a' := by
  unfold Memory.write16
  rw [Memory.read_write_other _ _ h1, Memory.read_write_other _ _ h0]

/-- The addresses of the entries after a 2-byte write. -/
theorem Memory.mem_write16 {m : Memory} {a : Nat} {v : BitVec 16} {c : Host.Cell} (h : c ∈ (m.write16 a v).cells) :
    c ∈ m.cells ∨ c.1 = a ∨ c.1 = a + 1 := by
  rcases mem_writeCells h with h | ⟨rfl, _⟩
  · rcases mem_writeCells h with h | ⟨rfl, _⟩
    · exact .inl h
    · exact .inr (.inl rfl)
  · exact .inr (.inr rfl)

theorem Memory.reset_wf : State.reset.pixbuf.wf := Memory.cleared_wf

end Sys2Proof.Machine
end

