-- ==== Sys2Proof/Laws/State.lean ====
section
/-! SUPPORT. The fields of the state after each named update, one lemma per field per update, so that no proof unfolds a
record update. -/

namespace Sys2Proof.Machine

variable (s : State)

/-! ## setCodec -/

@[simp] theorem State.setCodec_si (e i : Int) : (s.setCodec e i).si = BitVec.ofInt 6 i := rfl
@[simp] theorem State.setCodec_est (e i : Int) : (s.setCodec e i).est = tc 12 e := rfl
@[simp] theorem State.setCodec_nph (e i : Int) : (s.setCodec e i).nph = s.nph := rfl
@[simp] theorem State.setCodec_nlo (e i : Int) : (s.setCodec e i).nlo = s.nlo := rfl
@[simp] theorem State.setCodec_acc (e i : Int) : (s.setCodec e i).acc = s.acc := rfl
@[simp] theorem State.setCodec_fin (e i : Int) : (s.setCodec e i).fin = s.fin := rfl
@[simp] theorem State.setCodec_fout (e i : Int) : (s.setCodec e i).fout = s.fout := rfl
@[simp] theorem State.setCodec_vieww (e i : Int) : (s.setCodec e i).vieww = s.vieww := rfl
@[simp] theorem State.setCodec_viewh (e i : Int) : (s.setCodec e i).viewh = s.viewh := rfl
@[simp] theorem State.setCodec_auxm (e i : Int) : (s.setCodec e i).auxm = s.auxm := rfl
@[simp] theorem State.setCodec_pst (e i : Int) : (s.setCodec e i).pst = s.pst := rfl
@[simp] theorem State.setCodec_pcur (e i : Int) : (s.setCodec e i).pcur = s.pcur := rfl
@[simp] theorem State.setCodec_plim (e i : Int) : (s.setCodec e i).plim = s.plim := rfl
@[simp] theorem State.setCodec_pbytes (e i : Int) : (s.setCodec e i).pbytes = s.pbytes := rfl
@[simp] theorem State.setCodec_pixbuf (e i : Int) : (s.setCodec e i).pixbuf = s.pixbuf := rfl
@[simp] theorem State.setCodec_fault (e i : Int) : (s.setCodec e i).fault = s.fault := rfl
@[simp] theorem State.setCodec_fop (e i : Int) : (s.setCodec e i).fop = s.fop := rfl
@[simp] theorem State.setCodec_farg (e i : Int) : (s.setCodec e i).farg = s.farg := rfl
@[simp] theorem State.setCodec_port (e i : Int) : (s.setCodec e i).port = s.port := rfl
@[simp] theorem State.setCodec_replies (e i : Int) : (s.setCodec e i).replies = s.replies := rfl

/-! ## setPacker -/

@[simp] theorem State.setPacker_si (p : Bool × Code) : (s.setPacker p).si = s.si := rfl
@[simp] theorem State.setPacker_est (p : Bool × Code) : (s.setPacker p).est = s.est := rfl
@[simp] theorem State.setPacker_nph (p : Bool × Code) : (s.setPacker p).nph = p.1 := rfl
@[simp] theorem State.setPacker_nlo (p : Bool × Code) : (s.setPacker p).nlo = p.2 := rfl
@[simp] theorem State.setPacker_acc (p : Bool × Code) : (s.setPacker p).acc = s.acc := rfl
@[simp] theorem State.setPacker_fin (p : Bool × Code) : (s.setPacker p).fin = s.fin := rfl
@[simp] theorem State.setPacker_fout (p : Bool × Code) : (s.setPacker p).fout = s.fout := rfl
@[simp] theorem State.setPacker_vieww (p : Bool × Code) : (s.setPacker p).vieww = s.vieww := rfl
@[simp] theorem State.setPacker_viewh (p : Bool × Code) : (s.setPacker p).viewh = s.viewh := rfl
@[simp] theorem State.setPacker_auxm (p : Bool × Code) : (s.setPacker p).auxm = s.auxm := rfl
@[simp] theorem State.setPacker_pst (p : Bool × Code) : (s.setPacker p).pst = s.pst := rfl
@[simp] theorem State.setPacker_pcur (p : Bool × Code) : (s.setPacker p).pcur = s.pcur := rfl
@[simp] theorem State.setPacker_plim (p : Bool × Code) : (s.setPacker p).plim = s.plim := rfl
@[simp] theorem State.setPacker_pbytes (p : Bool × Code) : (s.setPacker p).pbytes = s.pbytes := rfl
@[simp] theorem State.setPacker_pixbuf (p : Bool × Code) : (s.setPacker p).pixbuf = s.pixbuf := rfl
@[simp] theorem State.setPacker_fault (p : Bool × Code) : (s.setPacker p).fault = s.fault := rfl
@[simp] theorem State.setPacker_fop (p : Bool × Code) : (s.setPacker p).fop = s.fop := rfl
@[simp] theorem State.setPacker_farg (p : Bool × Code) : (s.setPacker p).farg = s.farg := rfl
@[simp] theorem State.setPacker_port (p : Bool × Code) : (s.setPacker p).port = s.port := rfl
@[simp] theorem State.setPacker_replies (p : Bool × Code) : (s.setPacker p).replies = s.replies := rfl

/-! ## setAcc -/

@[simp] theorem State.setAcc_si (n : Nat) : (s.setAcc n).si = s.si := rfl
@[simp] theorem State.setAcc_est (n : Nat) : (s.setAcc n).est = s.est := rfl
@[simp] theorem State.setAcc_nph (n : Nat) : (s.setAcc n).nph = s.nph := rfl
@[simp] theorem State.setAcc_nlo (n : Nat) : (s.setAcc n).nlo = s.nlo := rfl
@[simp] theorem State.setAcc_acc (n : Nat) : (s.setAcc n).acc = BitVec.ofNat 25 n := rfl
@[simp] theorem State.setAcc_fin (n : Nat) : (s.setAcc n).fin = s.fin := rfl
@[simp] theorem State.setAcc_fout (n : Nat) : (s.setAcc n).fout = s.fout := rfl
@[simp] theorem State.setAcc_vieww (n : Nat) : (s.setAcc n).vieww = s.vieww := rfl
@[simp] theorem State.setAcc_viewh (n : Nat) : (s.setAcc n).viewh = s.viewh := rfl
@[simp] theorem State.setAcc_auxm (n : Nat) : (s.setAcc n).auxm = s.auxm := rfl
@[simp] theorem State.setAcc_pst (n : Nat) : (s.setAcc n).pst = s.pst := rfl
@[simp] theorem State.setAcc_pcur (n : Nat) : (s.setAcc n).pcur = s.pcur := rfl
@[simp] theorem State.setAcc_plim (n : Nat) : (s.setAcc n).plim = s.plim := rfl
@[simp] theorem State.setAcc_pbytes (n : Nat) : (s.setAcc n).pbytes = s.pbytes := rfl
@[simp] theorem State.setAcc_pixbuf (n : Nat) : (s.setAcc n).pixbuf = s.pixbuf := rfl
@[simp] theorem State.setAcc_fault (n : Nat) : (s.setAcc n).fault = s.fault := rfl
@[simp] theorem State.setAcc_fop (n : Nat) : (s.setAcc n).fop = s.fop := rfl
@[simp] theorem State.setAcc_farg (n : Nat) : (s.setAcc n).farg = s.farg := rfl
@[simp] theorem State.setAcc_port (n : Nat) : (s.setAcc n).port = s.port := rfl
@[simp] theorem State.setAcc_replies (n : Nat) : (s.setAcc n).replies = s.replies := rfl

/-! ## openRaster -/

@[simp] theorem State.openRaster_si (w h : BitVec 12) : (s.openRaster w h).si = s.si := rfl
@[simp] theorem State.openRaster_est (w h : BitVec 12) : (s.openRaster w h).est = s.est := rfl
@[simp] theorem State.openRaster_nph (w h : BitVec 12) : (s.openRaster w h).nph = s.nph := rfl
@[simp] theorem State.openRaster_nlo (w h : BitVec 12) : (s.openRaster w h).nlo = s.nlo := rfl
@[simp] theorem State.openRaster_acc (w h : BitVec 12) : (s.openRaster w h).acc = s.acc := rfl
@[simp] theorem State.openRaster_fin (w h : BitVec 12) : (s.openRaster w h).fin = s.fin := rfl
@[simp] theorem State.openRaster_fout (w h : BitVec 12) : (s.openRaster w h).fout = s.fout := rfl
@[simp] theorem State.openRaster_vieww (w h : BitVec 12) : (s.openRaster w h).vieww = s.vieww := rfl
@[simp] theorem State.openRaster_viewh (w h : BitVec 12) : (s.openRaster w h).viewh = s.viewh := rfl
@[simp] theorem State.openRaster_auxm (w h : BitVec 12) : (s.openRaster w h).auxm = s.auxm := rfl
@[simp] theorem State.openRaster_pst (w h : BitVec 12) : (s.openRaster w h).pst = .opened := rfl
@[simp] theorem State.openRaster_pcur (w h : BitVec 12) : (s.openRaster w h).pcur = 0#25 := rfl
@[simp] theorem State.openRaster_plim (w h : BitVec 12) : (s.openRaster w h).plim = BitVec.ofNat 25 (w.toNat * h.toNat) := rfl
@[simp] theorem State.openRaster_pbytes (w h : BitVec 12) : (s.openRaster w h).pbytes = BitVec.ofNat 26 (2 * s.vieww.toNat * s.viewh.toNat) := rfl
@[simp] theorem State.openRaster_pixbuf (w h : BitVec 12) : (s.openRaster w h).pixbuf = Memory.cleared := rfl
@[simp] theorem State.openRaster_fault (w h : BitVec 12) : (s.openRaster w h).fault = s.fault := rfl
@[simp] theorem State.openRaster_fop (w h : BitVec 12) : (s.openRaster w h).fop = s.fop := rfl
@[simp] theorem State.openRaster_farg (w h : BitVec 12) : (s.openRaster w h).farg = s.farg := rfl
@[simp] theorem State.openRaster_port (w h : BitVec 12) : (s.openRaster w h).port = s.port := rfl
@[simp] theorem State.openRaster_replies (w h : BitVec 12) : (s.openRaster w h).replies = s.replies := rfl

/-! ## storePixel -/

@[simp] theorem State.storePixel_si (v : BitVec 16) : (s.storePixel v).si = s.si := rfl
@[simp] theorem State.storePixel_est (v : BitVec 16) : (s.storePixel v).est = s.est := rfl
@[simp] theorem State.storePixel_nph (v : BitVec 16) : (s.storePixel v).nph = s.nph := rfl
@[simp] theorem State.storePixel_nlo (v : BitVec 16) : (s.storePixel v).nlo = s.nlo := rfl
@[simp] theorem State.storePixel_acc (v : BitVec 16) : (s.storePixel v).acc = s.acc := rfl
@[simp] theorem State.storePixel_fin (v : BitVec 16) : (s.storePixel v).fin = s.fin := rfl
@[simp] theorem State.storePixel_fout (v : BitVec 16) : (s.storePixel v).fout = s.fout := rfl
@[simp] theorem State.storePixel_vieww (v : BitVec 16) : (s.storePixel v).vieww = s.vieww := rfl
@[simp] theorem State.storePixel_viewh (v : BitVec 16) : (s.storePixel v).viewh = s.viewh := rfl
@[simp] theorem State.storePixel_auxm (v : BitVec 16) : (s.storePixel v).auxm = s.auxm := rfl
@[simp] theorem State.storePixel_pst (v : BitVec 16) : (s.storePixel v).pst = s.pst := rfl
@[simp] theorem State.storePixel_pcur (v : BitVec 16) : (s.storePixel v).pcur = s.pcur + 1#25 := rfl
@[simp] theorem State.storePixel_plim (v : BitVec 16) : (s.storePixel v).plim = s.plim := rfl
@[simp] theorem State.storePixel_pbytes (v : BitVec 16) : (s.storePixel v).pbytes = s.pbytes := rfl
@[simp] theorem State.storePixel_pixbuf (v : BitVec 16) : (s.storePixel v).pixbuf = s.pixbuf.write16 (2 * s.pcur.toNat) v := rfl
@[simp] theorem State.storePixel_fault (v : BitVec 16) : (s.storePixel v).fault = s.fault := rfl
@[simp] theorem State.storePixel_fop (v : BitVec 16) : (s.storePixel v).fop = s.fop := rfl
@[simp] theorem State.storePixel_farg (v : BitVec 16) : (s.storePixel v).farg = s.farg := rfl
@[simp] theorem State.storePixel_port (v : BitVec 16) : (s.storePixel v).port = s.port := rfl
@[simp] theorem State.storePixel_replies (v : BitVec 16) : (s.storePixel v).replies = s.replies := rfl

/-! ## closeRaster -/

@[simp] theorem State.closeRaster_si : (s.closeRaster).si = s.si := rfl
@[simp] theorem State.closeRaster_est : (s.closeRaster).est = s.est := rfl
@[simp] theorem State.closeRaster_nph : (s.closeRaster).nph = s.nph := rfl
@[simp] theorem State.closeRaster_nlo : (s.closeRaster).nlo = s.nlo := rfl
@[simp] theorem State.closeRaster_acc : (s.closeRaster).acc = s.acc := rfl
@[simp] theorem State.closeRaster_fin : (s.closeRaster).fin = s.fin := rfl
@[simp] theorem State.closeRaster_fout : (s.closeRaster).fout = s.fout := rfl
@[simp] theorem State.closeRaster_vieww : (s.closeRaster).vieww = s.vieww := rfl
@[simp] theorem State.closeRaster_viewh : (s.closeRaster).viewh = s.viewh := rfl
@[simp] theorem State.closeRaster_auxm : (s.closeRaster).auxm = s.auxm := rfl
@[simp] theorem State.closeRaster_pst : (s.closeRaster).pst = .done := rfl
@[simp] theorem State.closeRaster_pcur : (s.closeRaster).pcur = s.pcur := rfl
@[simp] theorem State.closeRaster_plim : (s.closeRaster).plim = s.plim := rfl
@[simp] theorem State.closeRaster_pbytes : (s.closeRaster).pbytes = s.pbytes := rfl
@[simp] theorem State.closeRaster_pixbuf : (s.closeRaster).pixbuf = s.pixbuf := rfl
@[simp] theorem State.closeRaster_fault : (s.closeRaster).fault = s.fault := rfl
@[simp] theorem State.closeRaster_fop : (s.closeRaster).fop = s.fop := rfl
@[simp] theorem State.closeRaster_farg : (s.closeRaster).farg = s.farg := rfl
@[simp] theorem State.closeRaster_port : (s.closeRaster).port = s.port := rfl
@[simp] theorem State.closeRaster_replies : (s.closeRaster).replies = s.replies := rfl

/-! ## answer -/

@[simp] theorem State.answer_si (r : Response) : (s.answer r).si = s.si := rfl
@[simp] theorem State.answer_est (r : Response) : (s.answer r).est = s.est := rfl
@[simp] theorem State.answer_nph (r : Response) : (s.answer r).nph = s.nph := rfl
@[simp] theorem State.answer_nlo (r : Response) : (s.answer r).nlo = s.nlo := rfl
@[simp] theorem State.answer_acc (r : Response) : (s.answer r).acc = s.acc := rfl
@[simp] theorem State.answer_fin (r : Response) : (s.answer r).fin = s.fin := rfl
@[simp] theorem State.answer_fout (r : Response) : (s.answer r).fout = s.fout := rfl
@[simp] theorem State.answer_vieww (r : Response) : (s.answer r).vieww = s.vieww := rfl
@[simp] theorem State.answer_viewh (r : Response) : (s.answer r).viewh = s.viewh := rfl
@[simp] theorem State.answer_auxm (r : Response) : (s.answer r).auxm = s.auxm := rfl
@[simp] theorem State.answer_pst (r : Response) : (s.answer r).pst = s.pst := rfl
@[simp] theorem State.answer_pcur (r : Response) : (s.answer r).pcur = s.pcur := rfl
@[simp] theorem State.answer_plim (r : Response) : (s.answer r).plim = s.plim := rfl
@[simp] theorem State.answer_pbytes (r : Response) : (s.answer r).pbytes = s.pbytes := rfl
@[simp] theorem State.answer_pixbuf (r : Response) : (s.answer r).pixbuf = s.pixbuf := rfl
@[simp] theorem State.answer_fault (r : Response) : (s.answer r).fault = s.fault := rfl
@[simp] theorem State.answer_fop (r : Response) : (s.answer r).fop = s.fop := rfl
@[simp] theorem State.answer_farg (r : Response) : (s.answer r).farg = s.farg := rfl
@[simp] theorem State.answer_port (r : Response) : (s.answer r).port = s.port := rfl
@[simp] theorem State.answer_replies (r : Response) : (s.answer r).replies = s.replies ++ [r] := rfl

/-! ## abort -/

@[simp] theorem State.abort_si : (s.abort).si = s.si := rfl
@[simp] theorem State.abort_est : (s.abort).est = s.est := rfl
@[simp] theorem State.abort_nph : (s.abort).nph = s.nph := rfl
@[simp] theorem State.abort_nlo : (s.abort).nlo = s.nlo := rfl
@[simp] theorem State.abort_acc : (s.abort).acc = s.acc := rfl
@[simp] theorem State.abort_fin : (s.abort).fin = s.fin := rfl
@[simp] theorem State.abort_fout : (s.abort).fout = s.fout := rfl
@[simp] theorem State.abort_vieww : (s.abort).vieww = s.vieww := rfl
@[simp] theorem State.abort_viewh : (s.abort).viewh = s.viewh := rfl
@[simp] theorem State.abort_auxm : (s.abort).auxm = s.auxm := rfl
@[simp] theorem State.abort_pst : (s.abort).pst = s.pst := rfl
@[simp] theorem State.abort_pcur : (s.abort).pcur = s.pcur := rfl
@[simp] theorem State.abort_plim : (s.abort).plim = s.plim := rfl
@[simp] theorem State.abort_pbytes : (s.abort).pbytes = s.pbytes := rfl
@[simp] theorem State.abort_pixbuf : (s.abort).pixbuf = s.pixbuf := rfl
@[simp] theorem State.abort_fault : (s.abort).fault = s.fault := rfl
@[simp] theorem State.abort_fop : (s.abort).fop = s.fop := rfl
@[simp] theorem State.abort_farg : (s.abort).farg = s.farg := rfl
@[simp] theorem State.abort_port : (s.abort).port = s.port := rfl
@[simp] theorem State.abort_replies : (s.abort).replies = s.replies ++ [abortedResponse] := rfl

/-! ## resetBlock -/

@[simp] theorem State.resetBlock_si : s.resetBlock.si = State.reset.si := rfl
@[simp] theorem State.resetBlock_est : s.resetBlock.est = State.reset.est := rfl
@[simp] theorem State.resetBlock_nph : s.resetBlock.nph = State.reset.nph := rfl
@[simp] theorem State.resetBlock_nlo : s.resetBlock.nlo = State.reset.nlo := rfl
@[simp] theorem State.resetBlock_acc : s.resetBlock.acc = State.reset.acc := rfl
@[simp] theorem State.resetBlock_fin : s.resetBlock.fin = State.reset.fin := rfl
@[simp] theorem State.resetBlock_fout : s.resetBlock.fout = State.reset.fout := rfl
@[simp] theorem State.resetBlock_vieww : s.resetBlock.vieww = State.reset.vieww := rfl
@[simp] theorem State.resetBlock_viewh : s.resetBlock.viewh = State.reset.viewh := rfl
@[simp] theorem State.resetBlock_auxm : s.resetBlock.auxm = State.reset.auxm := rfl
@[simp] theorem State.resetBlock_pst : s.resetBlock.pst = State.reset.pst := rfl
@[simp] theorem State.resetBlock_pcur : s.resetBlock.pcur = State.reset.pcur := rfl
@[simp] theorem State.resetBlock_plim : s.resetBlock.plim = State.reset.plim := rfl
@[simp] theorem State.resetBlock_pbytes : s.resetBlock.pbytes = State.reset.pbytes := rfl
@[simp] theorem State.resetBlock_pixbuf : s.resetBlock.pixbuf = State.reset.pixbuf := rfl
@[simp] theorem State.resetBlock_fault : s.resetBlock.fault = State.reset.fault := rfl
@[simp] theorem State.resetBlock_fop : s.resetBlock.fop = State.reset.fop := rfl
@[simp] theorem State.resetBlock_farg : s.resetBlock.farg = State.reset.farg := rfl
@[simp] theorem State.resetBlock_port : s.resetBlock.port = s.port := rfl
@[simp] theorem State.resetBlock_replies : s.resetBlock.replies = s.replies := rfl

/-! ## writeCfg: the fields no CWR writes, then the six it may -/

@[simp] theorem State.writeCfg_si (r : Reg) (v : BitVec 24) : (s.writeCfg r v).si = s.si := by cases r <;> rfl
@[simp] theorem State.writeCfg_est (r : Reg) (v : BitVec 24) : (s.writeCfg r v).est = s.est := by cases r <;> rfl
@[simp] theorem State.writeCfg_nph (r : Reg) (v : BitVec 24) : (s.writeCfg r v).nph = s.nph := by cases r <;> rfl
@[simp] theorem State.writeCfg_nlo (r : Reg) (v : BitVec 24) : (s.writeCfg r v).nlo = s.nlo := by cases r <;> rfl
@[simp] theorem State.writeCfg_pst (r : Reg) (v : BitVec 24) : (s.writeCfg r v).pst = s.pst := by cases r <;> rfl
@[simp] theorem State.writeCfg_pcur (r : Reg) (v : BitVec 24) : (s.writeCfg r v).pcur = s.pcur := by cases r <;> rfl
@[simp] theorem State.writeCfg_plim (r : Reg) (v : BitVec 24) : (s.writeCfg r v).plim = s.plim := by cases r <;> rfl
@[simp] theorem State.writeCfg_pbytes (r : Reg) (v : BitVec 24) : (s.writeCfg r v).pbytes = s.pbytes := by cases r <;> rfl
@[simp] theorem State.writeCfg_pixbuf (r : Reg) (v : BitVec 24) : (s.writeCfg r v).pixbuf = s.pixbuf := by cases r <;> rfl
@[simp] theorem State.writeCfg_fault (r : Reg) (v : BitVec 24) : (s.writeCfg r v).fault = s.fault := by cases r <;> rfl
@[simp] theorem State.writeCfg_fop (r : Reg) (v : BitVec 24) : (s.writeCfg r v).fop = s.fop := by cases r <;> rfl
@[simp] theorem State.writeCfg_farg (r : Reg) (v : BitVec 24) : (s.writeCfg r v).farg = s.farg := by cases r <;> rfl
@[simp] theorem State.writeCfg_port (r : Reg) (v : BitVec 24) : (s.writeCfg r v).port = s.port := by cases r <;> rfl
@[simp] theorem State.writeCfg_replies (r : Reg) (v : BitVec 24) : (s.writeCfg r v).replies = s.replies := by cases r <;> rfl
@[simp] theorem State.writeCfg_vieww_vieww (v : BitVec 24) : (s.writeCfg .vieww v).vieww = v.setWidth 12 := rfl
@[simp] theorem State.writeCfg_vieww_viewh (v : BitVec 24) : (s.writeCfg .vieww v).viewh = s.viewh := rfl
@[simp] theorem State.writeCfg_vieww_auxm (v : BitVec 24) : (s.writeCfg .vieww v).auxm = s.auxm := rfl
@[simp] theorem State.writeCfg_vieww_fin (v : BitVec 24) : (s.writeCfg .vieww v).fin = s.fin := rfl
@[simp] theorem State.writeCfg_vieww_fout (v : BitVec 24) : (s.writeCfg .vieww v).fout = s.fout := rfl
@[simp] theorem State.writeCfg_vieww_acc (v : BitVec 24) : (s.writeCfg .vieww v).acc = s.acc := rfl
@[simp] theorem State.writeCfg_viewh_vieww (v : BitVec 24) : (s.writeCfg .viewh v).vieww = s.vieww := rfl
@[simp] theorem State.writeCfg_viewh_viewh (v : BitVec 24) : (s.writeCfg .viewh v).viewh = v.setWidth 12 := rfl
@[simp] theorem State.writeCfg_viewh_auxm (v : BitVec 24) : (s.writeCfg .viewh v).auxm = s.auxm := rfl
@[simp] theorem State.writeCfg_viewh_fin (v : BitVec 24) : (s.writeCfg .viewh v).fin = s.fin := rfl
@[simp] theorem State.writeCfg_viewh_fout (v : BitVec 24) : (s.writeCfg .viewh v).fout = s.fout := rfl
@[simp] theorem State.writeCfg_viewh_acc (v : BitVec 24) : (s.writeCfg .viewh v).acc = s.acc := rfl
@[simp] theorem State.writeCfg_auxm_vieww (v : BitVec 24) : (s.writeCfg .auxm v).vieww = s.vieww := rfl
@[simp] theorem State.writeCfg_auxm_viewh (v : BitVec 24) : (s.writeCfg .auxm v).viewh = s.viewh := rfl
@[simp] theorem State.writeCfg_auxm_auxm (v : BitVec 24) : (s.writeCfg .auxm v).auxm = if v = 0#24 then .defaultMode else .intensityMode := rfl
@[simp] theorem State.writeCfg_auxm_fin (v : BitVec 24) : (s.writeCfg .auxm v).fin = s.fin := rfl
@[simp] theorem State.writeCfg_auxm_fout (v : BitVec 24) : (s.writeCfg .auxm v).fout = s.fout := rfl
@[simp] theorem State.writeCfg_auxm_acc (v : BitVec 24) : (s.writeCfg .auxm v).acc = s.acc := rfl
@[simp] theorem State.writeCfg_fin_vieww (v : BitVec 24) : (s.writeCfg .fin v).vieww = s.vieww := rfl
@[simp] theorem State.writeCfg_fin_viewh (v : BitVec 24) : (s.writeCfg .fin v).viewh = s.viewh := rfl
@[simp] theorem State.writeCfg_fin_auxm (v : BitVec 24) : (s.writeCfg .fin v).auxm = s.auxm := rfl
@[simp] theorem State.writeCfg_fin_fin (v : BitVec 24) : (s.writeCfg .fin v).fin = v := rfl
@[simp] theorem State.writeCfg_fin_fout (v : BitVec 24) : (s.writeCfg .fin v).fout = s.fout := rfl
@[simp] theorem State.writeCfg_fin_acc (v : BitVec 24) : (s.writeCfg .fin v).acc = 0#25 := rfl
@[simp] theorem State.writeCfg_fout_vieww (v : BitVec 24) : (s.writeCfg .fout v).vieww = s.vieww := rfl
@[simp] theorem State.writeCfg_fout_viewh (v : BitVec 24) : (s.writeCfg .fout v).viewh = s.viewh := rfl
@[simp] theorem State.writeCfg_fout_auxm (v : BitVec 24) : (s.writeCfg .fout v).auxm = s.auxm := rfl
@[simp] theorem State.writeCfg_fout_fin (v : BitVec 24) : (s.writeCfg .fout v).fin = s.fin := rfl
@[simp] theorem State.writeCfg_fout_fout (v : BitVec 24) : (s.writeCfg .fout v).fout = v := rfl
@[simp] theorem State.writeCfg_fout_acc (v : BitVec 24) : (s.writeCfg .fout v).acc = 0#25 := rfl

/-! ## latch and fail -/

@[simp] theorem State.latch_si (e : ErrorCode) (w : CommandWord) : (s.latch e w).si = s.si := by
  unfold State.latch; split <;> rfl
@[simp] theorem State.latch_est (e : ErrorCode) (w : CommandWord) : (s.latch e w).est = s.est := by
  unfold State.latch; split <;> rfl
@[simp] theorem State.latch_nph (e : ErrorCode) (w : CommandWord) : (s.latch e w).nph = s.nph := by
  unfold State.latch; split <;> rfl
@[simp] theorem State.latch_nlo (e : ErrorCode) (w : CommandWord) : (s.latch e w).nlo = s.nlo := by
  unfold State.latch; split <;> rfl
@[simp] theorem State.latch_acc (e : ErrorCode) (w : CommandWord) : (s.latch e w).acc = s.acc := by
  unfold State.latch; split <;> rfl
@[simp] theorem State.latch_fin (e : ErrorCode) (w : CommandWord) : (s.latch e w).fin = s.fin := by
  unfold State.latch; split <;> rfl
@[simp] theorem State.latch_fout (e : ErrorCode) (w : CommandWord) : (s.latch e w).fout = s.fout := by
  unfold State.latch; split <;> rfl
@[simp] theorem State.latch_vieww (e : ErrorCode) (w : CommandWord) : (s.latch e w).vieww = s.vieww := by
  unfold State.latch; split <;> rfl
@[simp] theorem State.latch_viewh (e : ErrorCode) (w : CommandWord) : (s.latch e w).viewh = s.viewh := by
  unfold State.latch; split <;> rfl
@[simp] theorem State.latch_auxm (e : ErrorCode) (w : CommandWord) : (s.latch e w).auxm = s.auxm := by
  unfold State.latch; split <;> rfl
@[simp] theorem State.latch_pst (e : ErrorCode) (w : CommandWord) : (s.latch e w).pst = s.pst := by
  unfold State.latch; split <;> rfl
@[simp] theorem State.latch_pcur (e : ErrorCode) (w : CommandWord) : (s.latch e w).pcur = s.pcur := by
  unfold State.latch; split <;> rfl
@[simp] theorem State.latch_plim (e : ErrorCode) (w : CommandWord) : (s.latch e w).plim = s.plim := by
  unfold State.latch; split <;> rfl
@[simp] theorem State.latch_pbytes (e : ErrorCode) (w : CommandWord) : (s.latch e w).pbytes = s.pbytes := by
  unfold State.latch; split <;> rfl
@[simp] theorem State.latch_pixbuf (e : ErrorCode) (w : CommandWord) : (s.latch e w).pixbuf = s.pixbuf := by
  unfold State.latch; split <;> rfl
@[simp] theorem State.latch_port (e : ErrorCode) (w : CommandWord) : (s.latch e w).port = s.port := by
  unfold State.latch; split <;> rfl
@[simp] theorem State.latch_replies (e : ErrorCode) (w : CommandWord) : (s.latch e w).replies = s.replies := by
  unfold State.latch; split <;> rfl
@[simp] theorem State.fail_si (e : ErrorCode) (w : CommandWord) : (s.fail e w).si = s.si := by
  simp [State.fail]
@[simp] theorem State.fail_est (e : ErrorCode) (w : CommandWord) : (s.fail e w).est = s.est := by
  simp [State.fail]
@[simp] theorem State.fail_nph (e : ErrorCode) (w : CommandWord) : (s.fail e w).nph = s.nph := by
  simp [State.fail]
@[simp] theorem State.fail_nlo (e : ErrorCode) (w : CommandWord) : (s.fail e w).nlo = s.nlo := by
  simp [State.fail]
@[simp] theorem State.fail_acc (e : ErrorCode) (w : CommandWord) : (s.fail e w).acc = s.acc := by
  simp [State.fail]
@[simp] theorem State.fail_fin (e : ErrorCode) (w : CommandWord) : (s.fail e w).fin = s.fin := by
  simp [State.fail]
@[simp] theorem State.fail_fout (e : ErrorCode) (w : CommandWord) : (s.fail e w).fout = s.fout := by
  simp [State.fail]
@[simp] theorem State.fail_vieww (e : ErrorCode) (w : CommandWord) : (s.fail e w).vieww = s.vieww := by
  simp [State.fail]
@[simp] theorem State.fail_viewh (e : ErrorCode) (w : CommandWord) : (s.fail e w).viewh = s.viewh := by
  simp [State.fail]
@[simp] theorem State.fail_auxm (e : ErrorCode) (w : CommandWord) : (s.fail e w).auxm = s.auxm := by
  simp [State.fail]
@[simp] theorem State.fail_pst (e : ErrorCode) (w : CommandWord) : (s.fail e w).pst = s.pst := by
  simp [State.fail]
@[simp] theorem State.fail_pcur (e : ErrorCode) (w : CommandWord) : (s.fail e w).pcur = s.pcur := by
  simp [State.fail]
@[simp] theorem State.fail_plim (e : ErrorCode) (w : CommandWord) : (s.fail e w).plim = s.plim := by
  simp [State.fail]
@[simp] theorem State.fail_pbytes (e : ErrorCode) (w : CommandWord) : (s.fail e w).pbytes = s.pbytes := by
  simp [State.fail]
@[simp] theorem State.fail_pixbuf (e : ErrorCode) (w : CommandWord) : (s.fail e w).pixbuf = s.pixbuf := by
  simp [State.fail]
@[simp] theorem State.fail_port (e : ErrorCode) (w : CommandWord) : (s.fail e w).port = s.port := by
  simp [State.fail]
@[simp] theorem State.fail_replies (e : ErrorCode) (w : CommandWord) : (s.fail e w).replies = s.replies ++ [errorResponse e] := by
  simp [State.fail]
/-- The first error since reset is the one recorded (R196). -/
theorem State.latch_of_clear (e : ErrorCode) (w : CommandWord) (h : s.fault = none) :
    s.latch e w = { s with fault := some e, fop := CommandWord.op w, farg := CommandWord.arg w } := by
  simp [State.latch, h]

/-- A later error leaves the latch as it is (R196). -/
theorem State.latch_of_set (e : ErrorCode) (w : CommandWord) {e' : ErrorCode} (h : s.fault = some e') :
    s.latch e w = s := by
  simp [State.latch, h]

@[simp] theorem State.fail_fault (e : ErrorCode) (w : CommandWord) : (s.fail e w).fault = some (s.fault.getD e) := by
  unfold State.fail State.latch State.answer; split <;> simp_all

@[simp] theorem State.fail_fop (e : ErrorCode) (w : CommandWord) :
    (s.fail e w).fop = if s.fault = none then CommandWord.op w else s.fop := by
  unfold State.fail State.latch State.answer; split <;> simp_all

@[simp] theorem State.fail_farg (e : ErrorCode) (w : CommandWord) :
    (s.fail e w).farg = if s.fault = none then CommandWord.arg w else s.farg := by
  unfold State.fail State.latch State.answer; split <;> simp_all

end Sys2Proof.Machine
end

