-- ==== Sys2Proof/Laws/Ops.lean ====
section
/-! SUPPORT. What each shared operation can do, said once: the latch test, the end of a command, the acceptance of a
command word, one step, a read of PIXBUF. Later proofs cite these and unfold none of the operations. -/

namespace Sys2Proof.Machine

variable {s t : State}

/-! ## The latch test (R197) -/

@[simp] theorem State.refusesOp_of_clear (h : s.fault = none) (op : BitVec 8) : s.refusesOp op = false := by
  simp [State.refusesOp, h]

theorem State.refusesOp_iff (op : BitVec 8) :
    s.refusesOp op = true ↔ s.fault ≠ none ∧ op ≠ 0x00#8 ∧ op ≠ 0x02#8 ∧ op ≠ 0x03#8 := by
  cases hf : s.fault <;> simp [State.refusesOp, hf, and_assoc]

/-! ## The end of a command (R197) -/

/-- An unlatched block runs the rule. -/
theorem perform_of_clear (i : Instr) (rule : State → RuleResult) (h : s.fault = none) :
    perform i rule s = .next (s.finish (encode i) (rule s)) := by
  simp [perform, h]

/-- Any block runs the rule of a command whose opcode the latch does not refuse. -/
theorem perform_of_accepted (i : Instr) (rule : State → RuleResult) (h : s.refusesOp i.opcode.code = false) :
    perform i rule s = .next (s.finish (encode i) (rule s)) := by
  simp [perform, h]

/-- A latched block answers E_ABORTED (R195). -/
theorem perform_of_refused (i : Instr) (rule : State → RuleResult) (h : s.refusesOp i.opcode.code = true) :
    perform i rule s = .next s.abort := by
  simp [perform, h]

/-- Everything `perform` can do. -/
theorem perform_cases {i : Instr} {rule : State → RuleResult} (h : perform i rule s = .next t) :
    (s.refusesOp i.opcode.code = true ∧ t = s.abort) ∨
    (s.refusesOp i.opcode.code = false ∧ ∃ e, rule s = .error e ∧ t = s.fail e (encode i)) ∨
    (s.refusesOp i.opcode.code = false ∧ ∃ u d, rule s = .ok (u, d) ∧ t = u.answer (okResponse d)) := by
  unfold perform at h
  cases hr : s.refusesOp i.opcode.code with
  | true =>
    simp only [hr, if_true, Host.Outcome.next.injEq] at h
    exact .inl ⟨rfl, h.symm⟩
  | false =>
    simp only [hr, Host.Outcome.next.injEq] at h
    cases hq : rule s with
    | error e =>
      refine .inr (.inl ⟨rfl, e, rfl, ?_⟩)
      simpa [hq, State.finish] using h.symm
    | ok p =>
      obtain ⟨u, d⟩ := p
      refine .inr (.inr ⟨rfl, u, d, rfl, ?_⟩)
      simpa [hq, State.finish] using h.symm

/-- `perform` always answers. -/
theorem perform_answers (i : Instr) (rule : State → RuleResult) (s : State) : ∃ t, perform i rule s = .next t :=
  ⟨_, rfl⟩

/-- Everything `performReading` can do. -/
theorem performReading_cases {i : Instr} {rule : State → Except ErrorCode (Option Byte)}
    (h : performReading i rule s = .next t) :
    (s.refusesOp i.opcode.code = true ∧ t = s.abort) ∨
    (s.refusesOp i.opcode.code = false ∧ ∃ e, rule s = .error e ∧ t = s.fail e (encode i)) ∨
    (s.refusesOp i.opcode.code = false ∧ ∃ b, rule s = .ok (some b) ∧ t = s.answer (okResponse (b.setWidth 32))) := by
  unfold performReading at h
  cases hr : s.refusesOp i.opcode.code with
  | true =>
    simp only [hr, if_true, Host.Outcome.next.injEq] at h
    exact .inl ⟨rfl, h.symm⟩
  | false =>
    simp only [hr] at h
    cases hq : rule s with
    | error e =>
      refine .inr (.inl ⟨rfl, e, rfl, ?_⟩)
      simpa [hq] using h.symm
    | ok p =>
      cases p with
      | none => simp [hq] at h
      | some b =>
        refine .inr (.inr ⟨rfl, b, rfl, ?_⟩)
        simpa [hq] using h.symm

/-! ## PIXBUF reads -/

/-- A read gives a value exactly inside the active part of a begun raster (R41, R55). -/
theorem State.memRead_isSome (a : Nat) : (s.memRead a).isSome ↔ s.pst ≠ .idle ∧ a < s.pbytes.toNat := by
  unfold State.memRead
  split
  · rename_i h
    simp only [Option.isSome_none, Bool.false_eq_true, false_iff, not_and, not_lt]
    exact fun hp => h.resolve_left hp
  · rename_i h
    simpa [not_or] using h

theorem State.memRead_of_active {a : Nat} (hp : s.pst ≠ .idle) (ha : a < s.pbytes.toNat) :
    s.memRead a = some (s.pixbuf.read a) := by
  simp [State.memRead, hp, ha]

theorem State.memRead_of_idle (hp : s.pst = .idle) (a : Nat) : s.memRead a = none := by
  simp [State.memRead, hp]

/-- A read depends on PST, PBYTES and PIXBUF alone. -/
theorem State.memRead_congr (hp : t.pst = s.pst) (hb : t.pbytes = s.pbytes) (hm : t.pixbuf = s.pixbuf) (a : Nat) :
    t.memRead a = s.memRead a := by
  simp [State.memRead, hp, hb, hm]

/-! ## Acceptance and the step (R197, R238) -/

theorem step_of_port_nil (h : s.port = []) : step s = .next s := by
  simp [step, takeAction, h]

theorem step_of_port_cons {a : HostAction} {rest : List HostAction} (h : s.port = a :: rest) :
    step s = perAction a { s with port := rest } := by
  simp [step, takeAction, h]

/-- Everything accepting a command word can do. -/
theorem accept_cases {w : CommandWord} (h : accept w s = .next t) :
    (s.refusesOp (CommandWord.op w) = true ∧ t = s.abort) ∨
    (s.refusesOp (CommandWord.op w) = false ∧ decode w = none ∧ t = s.fail .illegal w) ∨
    (s.refusesOp (CommandWord.op w) = false ∧ ∃ i, decode w = some i ∧ exec i s = .next t) := by
  unfold accept at h
  cases hr : s.refusesOp (CommandWord.op w) with
  | true =>
    simp only [hr, if_true, Host.Outcome.next.injEq] at h
    exact .inl ⟨rfl, h.symm⟩
  | false =>
    simp only [hr] at h
    cases hd : decode w with
    | none =>
      refine .inr (.inl ⟨rfl, rfl, ?_⟩)
      simpa [hd] using h.symm
    | some i =>
      refine .inr (.inr ⟨rfl, i, rfl, ?_⟩)
      simpa [hd] using h

end Sys2Proof.Machine
end

