-- ==== Sys2Proof/Laws/Exec.lean ====
section
/-! SUPPORT. The 24 commands under one shape, for a block built with any parameters: `execWith P` is `perform` of the
command's rule, PRD's included, so that a proof about every command does one case analysis over the rules and none over the
latch and the response. `exec` is the block built with `Parameters.block`. -/

namespace Sys2Proof.Machine

variable {P : Parameters} {i : Instr} {s t : State}

@[simp] theorem Parameters.block_codec : Parameters.block.codec = Config.codec := rfl
@[simp] theorem Parameters.block_maxW : Parameters.block.view.maxW = Config.maxViewW := rfl
@[simp] theorem Parameters.block_maxH : Parameters.block.view.maxH = Config.maxViewH := rfl
@[simp] theorem Parameters.block_timing : Parameters.block.timing = timing := rfl

/-- The rule of each command of a block built with `P`. PRD's is its byte read, written out: inside the active part the byte has a value. -/
def ruleOf (P : Parameters) (i : Instr) : State → RuleResult :=
  match i with
  | .nop => ruleNop
  | .cwr idx val => ruleCwr P.view idx val
  | .crd idx => ruleCrd idx
  | .srst => ruleSrst
  | .arst => ruleArst
  | .anrw s16 => ruleAnrw s16
  | .adec code => ruleAdec P.codec code
  | .aenc s12 => ruleAenc P.codec s12
  | .apck code => ruleApck code
  | .aflush => ruleAflush
  | .aencs s16 => ruleAencs P.codec s16
  | .adecb byte => ruleAdecb P.codec byte
  | .rrst => ruleRrst
  | .dmix a b => ruleDmix a b
  | .rsmp s16 => ruleRsmp s16
  | .pconv r g b => rulePconv r g b
  | .pbegin w h => rulePbegin w h
  | .ppix r g b => rulePpix r g b
  | .pend => rulePend
  | .prd addr => fun s =>
    if s.pst = .idle then .error .seq
    else if addr.toNat ≥ s.pbytes.toNat then .error .param
    else .ok (s, (s.pixbuf.read addr.toNat).setWidth 32)
  | .fvs rc k => ruleFvs P.timing rc k
  | .fsz v => ruleFsz v
  | .frc rc => ruleFrc P.timing rc
  | .fdur sel k => ruleFdur P.timing sel k

theorem execPrd_eq (P : Parameters) (addr : BitVec 26) (s : State) :
    execPrd addr s = perform (.prd addr) (ruleOf P (.prd addr)) s := by
  unfold execPrd performReading perform
  cases hr : s.refusesOp (Instr.prd addr).opcode.code with
  | true => simp
  | false =>
    by_cases hi : s.pst = .idle
    · simp [rulePrd, ruleOf, hi, State.finish]
    · by_cases ha : addr.toNat ≥ s.pbytes.toNat
      · simp [rulePrd, ruleOf, hi, ha, State.finish]
      · simp [rulePrd, ruleOf, hi, ha, State.finish, State.memRead_of_active hi (by omega : addr.toNat < s.pbytes.toNat)]

/-- Every command of every block is the latch test, its rule and its end (R197). -/
theorem execWith_eq (P : Parameters) (i : Instr) (s : State) : execWith P i s = perform i (ruleOf P i) s := by
  cases i
  case prd addr => exact execPrd_eq P addr s
  all_goals rfl

/-- `exec` is the block built with its own parameters. -/
theorem exec_eq_execWith (i : Instr) (s : State) : exec i s = execWith Parameters.block i s := by
  cases i <;> rfl

/-- Every command is the latch test, its rule and its end (R197). -/
theorem exec_eq (i : Instr) (s : State) : exec i s = perform i (ruleOf Parameters.block i) s := by
  rw [exec_eq_execWith, execWith_eq]

/-- An unlatched block runs the rule of every command. -/
theorem execWith_of_clear (P : Parameters) (i : Instr) (h : s.fault = none) :
    execWith P i s = .next (s.finish (encode i) (ruleOf P i s)) := by
  rw [execWith_eq, perform_of_clear i _ h]

/-- The same of `exec`. -/
theorem exec_of_clear (i : Instr) (h : s.fault = none) :
    exec i s = .next (s.finish (encode i) (ruleOf Parameters.block i s)) := by
  rw [exec_eq, perform_of_clear i _ h]

/-- Everything a command can do: be refused by the latch, raise an error, or complete. -/
theorem execWith_cases (h : execWith P i s = .next t) :
    (s.refusesOp i.opcode.code = true ∧ t = s.abort) ∨
    (s.refusesOp i.opcode.code = false ∧ ∃ e, ruleOf P i s = .error e ∧ t = s.fail e (encode i)) ∨
    (s.refusesOp i.opcode.code = false ∧ ∃ u d, ruleOf P i s = .ok (u, d) ∧ t = u.answer (okResponse d)) := by
  rw [execWith_eq] at h
  exact perform_cases h

/-- The same of `exec`. -/
theorem exec_cases (h : exec i s = .next t) :
    (s.refusesOp i.opcode.code = true ∧ t = s.abort) ∨
    (s.refusesOp i.opcode.code = false ∧ ∃ e, ruleOf Parameters.block i s = .error e ∧ t = s.fail e (encode i)) ∨
    (s.refusesOp i.opcode.code = false ∧ ∃ u d, ruleOf Parameters.block i s = .ok (u, d) ∧
      t = u.answer (okResponse d)) :=
  execWith_cases (exec_eq_execWith i s ▸ h)

/-- Encoding decodes as it goes (R107): the state `adpcm_encode` leaves in the registers is the decoder's for its code. -/
theorem State.encodeSample_eq (T : CodecTables) (s : State) (sample : Int) :
    s.encodeSample T sample = s.decodeCode T (s.codeFor T sample) := rfl

/-- A rule that completes leaves both sides of the port as they are. -/
theorem ruleOf_ok_port {u : State} {d : Word32} (h : ruleOf P i s = .ok (u, d)) :
    u.port = s.port ∧ u.replies = s.replies := by
  cases i <;> simp only [ruleOf, ruleNop, ruleSrst, ruleArst, ruleAnrw, ruleAdec, ruleAenc, ruleApck, ruleAflush,
    ruleAencs, ruleAdecb, ruleRrst, ruleDmix, rulePconv, ruleCwr, ruleCrd, ruleRsmp, rulePbegin, rulePpix, rulePend,
    ruleFvs, ruleFsz, ruleFrc, ruleFdur, State.decodeCode, State.encodeSample] at h
  all_goals
    repeat' split at h
    all_goals first
      | cases h; done
      | (simp only [Except.ok.injEq, Prod.mk.injEq] at h; obtain ⟨rfl, rfl⟩ := h; simp)

end Sys2Proof.Machine
end

