-- ==== Sys2Proof/Laws/PerInstr.lean ====
section
/-! SUPPORT. The statements made per instruction. -/

namespace Sys2Proof.Laws

/-- The word of a command lies in its opcode's row of R74: under the row's mask it is the row's match, so its opcode is
the row's and no reserved operand bit is set. -/
def EncodeInRow.Statement (i : Instr) : Prop := encode i &&& i.opcode.mask = i.opcode.pattern

theorem EncodeInRow.append_and (a c : BitVec 8) (b d : BitVec 32) :
    (a ++ b) &&& (c ++ d) = (a &&& c) ++ (b &&& d) := by
  ext i hi
  simp only [BitVec.getElem_and, BitVec.getElem_append]
  split <;> simp

/-- The operand half is all there is to show. -/
theorem EncodeInRow.of_reserved {i : Instr} (h : i.arg &&& i.opcode.reserved = 0#32) : EncodeInRow.Statement i := by
  unfold EncodeInRow.Statement encode Opcode.mask Opcode.pattern
  rw [EncodeInRow.append_and, h]
  have hc : i.opcode.code &&& 0xFF#8 = i.opcode.code := by cases i.opcode <;> decide
  rw [hc]

theorem EncodeInRow.nop : EncodeInRow.Statement .nop :=
  EncodeInRow.of_reserved (arg_reserved _)

theorem EncodeInRow.cwr (idx : BitVec 8) (val : BitVec 24) : EncodeInRow.Statement (.cwr idx val) :=
  EncodeInRow.of_reserved (arg_reserved _)

theorem EncodeInRow.crd (idx : BitVec 8) : EncodeInRow.Statement (.crd idx) :=
  EncodeInRow.of_reserved (arg_reserved _)

theorem EncodeInRow.srst : EncodeInRow.Statement .srst :=
  EncodeInRow.of_reserved (arg_reserved _)

theorem EncodeInRow.arst : EncodeInRow.Statement .arst :=
  EncodeInRow.of_reserved (arg_reserved _)

theorem EncodeInRow.anrw (s16 : BitVec 16) : EncodeInRow.Statement (.anrw s16) :=
  EncodeInRow.of_reserved (arg_reserved _)

theorem EncodeInRow.adec (code : Code) : EncodeInRow.Statement (.adec code) :=
  EncodeInRow.of_reserved (arg_reserved _)

theorem EncodeInRow.aenc (s12 : BitVec 12) : EncodeInRow.Statement (.aenc s12) :=
  EncodeInRow.of_reserved (arg_reserved _)

theorem EncodeInRow.apck (code : Code) : EncodeInRow.Statement (.apck code) :=
  EncodeInRow.of_reserved (arg_reserved _)

theorem EncodeInRow.aflush : EncodeInRow.Statement .aflush :=
  EncodeInRow.of_reserved (arg_reserved _)

theorem EncodeInRow.aencs (s16 : BitVec 16) : EncodeInRow.Statement (.aencs s16) :=
  EncodeInRow.of_reserved (arg_reserved _)

theorem EncodeInRow.adecb (byte : Byte) : EncodeInRow.Statement (.adecb byte) :=
  EncodeInRow.of_reserved (arg_reserved _)

theorem EncodeInRow.rrst : EncodeInRow.Statement .rrst :=
  EncodeInRow.of_reserved (arg_reserved _)

theorem EncodeInRow.dmix (a b : BitVec 16) : EncodeInRow.Statement (.dmix a b) :=
  EncodeInRow.of_reserved (arg_reserved _)

theorem EncodeInRow.rsmp (s16 : BitVec 16) : EncodeInRow.Statement (.rsmp s16) :=
  EncodeInRow.of_reserved (arg_reserved _)

theorem EncodeInRow.pconv (r g b : BitVec 8) : EncodeInRow.Statement (.pconv r g b) :=
  EncodeInRow.of_reserved (arg_reserved _)

theorem EncodeInRow.pbegin (w h : BitVec 12) : EncodeInRow.Statement (.pbegin w h) :=
  EncodeInRow.of_reserved (arg_reserved _)

theorem EncodeInRow.ppix (r g b : BitVec 8) : EncodeInRow.Statement (.ppix r g b) :=
  EncodeInRow.of_reserved (arg_reserved _)

theorem EncodeInRow.pend : EncodeInRow.Statement .pend :=
  EncodeInRow.of_reserved (arg_reserved _)

theorem EncodeInRow.prd (addr : BitVec 26) : EncodeInRow.Statement (.prd addr) :=
  EncodeInRow.of_reserved (arg_reserved _)

theorem EncodeInRow.fvs (rc k : BitVec 8) : EncodeInRow.Statement (.fvs rc k) :=
  EncodeInRow.of_reserved (arg_reserved _)

theorem EncodeInRow.fsz (v : BitVec 24) : EncodeInRow.Statement (.fsz v) :=
  EncodeInRow.of_reserved (arg_reserved _)

theorem EncodeInRow.frc (rc : BitVec 8) : EncodeInRow.Statement (.frc rc) :=
  EncodeInRow.of_reserved (arg_reserved _)

theorem EncodeInRow.fdur (sel : BitVec 1) (k : BitVec 8) : EncodeInRow.Statement (.fdur sel k) :=
  EncodeInRow.of_reserved (arg_reserved _)

end Sys2Proof.Laws
end

