-- ==== Sys2Proof/Machine/Assembler.lean ====
section
/-! DEFINITION. The written form of a command (R88): `MNEMONIC operand, operand, ...`, the operands in the order of R74.
Numbers are written in decimal, a signed field as a signed number, a register of CWR and CRD by its name; the block itself
has no assembler (D25, log 10). -/

namespace Sys2Proof.Machine

/-- The mnemonic of an opcode (R73). -/
def opcodeName : Opcode → String
  | .nop => "NOP"
  | .cwr => "CWR"
  | .crd => "CRD"
  | .srst => "SRST"
  | .arst => "ARST"
  | .anrw => "ANRW"
  | .adec => "ADEC"
  | .aenc => "AENC"
  | .apck => "APCK"
  | .aflush => "AFLUSH"
  | .aencs => "AENCS"
  | .adecb => "ADECB"
  | .rrst => "RRST"
  | .dmix => "DMIX"
  | .rsmp => "RSMP"
  | .pconv => "PCONV"
  | .pbegin => "PBEGIN"
  | .ppix => "PPIX"
  | .pend => "PEND"
  | .prd => "PRD"
  | .fvs => "FVS"
  | .fsz => "FSZ"
  | .frc => "FRC"
  | .fdur => "FDUR"

/-- The name of a register (R40). -/
def regName : Reg → String
  | .vieww => "VIEWW"
  | .viewh => "VIEWH"
  | .auxm => "AUXM"
  | .fin => "FIN"
  | .fout => "FOUT"
  | .si => "SI"
  | .est => "EST"
  | .pks => "PKS"
  | .acc => "ACC"
  | .pst => "PST"
  | .pcur => "PCUR"
  | .plim => "PLIM"
  | .pbytes => "PBYTES"
  | .fault => "FAULT"
  | .fop => "FOP"
  | .farg => "FARG"

/-- An unsigned field. -/
def asmNat {n : Nat} (v : BitVec n) : String := toString (zext v)

/-- A signed field. -/
def asmInt {n : Nat} (v : BitVec n) : String := toString (sext v)

/-- A register index: its name, or the number of a reserved index. -/
def asmIndex (idx : BitVec 8) : String :=
  match Reg.ofIndex idx with
  | some r => regName r
  | none => asmNat idx

/-- The operands of a command as written, in the order of R74. -/
def asmOperands : Instr → List String
  | .nop => []
  | .cwr idx val => [asmIndex idx, asmNat val]
  | .crd idx => [asmIndex idx]
  | .srst => []
  | .arst => []
  | .anrw s16 => [asmInt s16]
  | .adec code => [asmNat code]
  | .aenc s12 => [asmInt s12]
  | .apck code => [asmNat code]
  | .aflush => []
  | .aencs s16 => [asmInt s16]
  | .adecb byte => [asmNat byte]
  | .rrst => []
  | .dmix a b => [asmInt a, asmInt b]
  | .rsmp s16 => [asmInt s16]
  | .pconv r g b => [asmNat r, asmNat g, asmNat b]
  | .pbegin w h => [asmNat w, asmNat h]
  | .ppix r g b => [asmNat r, asmNat g, asmNat b]
  | .pend => []
  | .prd addr => [asmNat addr]
  | .fvs rc k => [asmNat rc, asmNat k]
  | .fsz v => [asmNat v]
  | .frc rc => [asmNat rc]
  | .fdur sel k => [asmNat sel, asmNat k]

/-- Operands joined by commas. -/
def joinOperands : List String → String
  | [] => ""
  | [x] => x
  | x :: y :: rest => x ++ ", " ++ joinOperands (y :: rest)

/-- A command as written (R88). -/
def asm (i : Instr) : String :=
  match asmOperands i with
  | [] => opcodeName i.opcode
  | x :: rest => opcodeName i.opcode ++ " " ++ joinOperands (x :: rest)

end Sys2Proof.Machine
end

