-- ==== Sys2Proof/Tests/Slice0.lean ====
section
/-! SUPPORT. The model's own tests: ill-formed commands refused, command words written out from R73 and R74, one step per
test with the result 95_test_vectors.md or a rule gives, and for every statement with hypotheses a concrete state and
operands that meet them. -/

namespace Sys2Proof.Tests

open Sys2Proof.Machine

/-! ## Helpers -/

/-- The last response of an outcome, as status and data. -/
def reply (o : Outcome State) : Option (Nat × Word32) :=
  match o with
  | .next t => t.replies.getLast?.map fun r => (r.status.toNat, r.data)
  | .fault _ => none
  | .refused _ => none

/-- What a function of the next state gives. -/
def after {α : Type} (f : State → α) (o : Outcome State) : Option α :=
  match o with
  | .next t => some (f t)
  | .fault _ => none
  | .refused _ => none

/-- The end of a rule: the error, or the data. -/
def ended (r : RuleResult) : Except ErrorCode Word32 := r.map Prod.snd

/-- Reset, with a view of 128 by 96. -/
def viewed : State := { State.reset with vieww := 128#12, viewh := 96#12 }

/-- Reset, with a view of 2 by 3 (program P4). -/
def small : State := { State.reset with vieww := 2#12, viewh := 3#12 }

/-- Program P4 after `PBEGIN 2, 2` and three PPIX. -/
def drawing : State :=
  { small with pst := .opened, plim := 4#25, pcur := 3#25, pbytes := 12#26, pixbuf := ⟨[(2, 0xFF#8), (3, 0xFF#8)]⟩ }

/-- Program P4 after the last PPIX. -/
def drawn : State :=
  { drawing with pcur := 4#25, pixbuf := ⟨[(2, 0xFF#8), (3, 0xFF#8), (6, 0x07#8), (7, 0xC3#8)]⟩ }

/-- Program P4 after PEND. -/
def closed : State := { drawn with pst := .done }

/-- Program P3 after its first two commands, at an accumulator of 46875. -/
def ticking : State := { State.reset with fin := 48000#24, fout := 15625#24, acc := 46875#25 }

/-- Program P6 after its third command: a latched block. -/
def latched : State := { viewed with fault := some .format, fop := 0x31#8, farg := 0x007F0060#32 }

/-- The codec in the state of program P1 after step 4, a nibble held. -/
def midway : State := { State.reset with si := 16#6, est := 95#12, nph := true, nlo := 0x7#4 }

/-- The illustrative tables of V-F2 with the calibrated entry `CAL[0][1] = 261`. -/
def calibrated : TimingTables :=
  { Config.illustrative with cal := fun rc k => if rc = 0 ∧ k = 1 then some 261 else none }

/-- A block built with other tables and limits than the defaults: STEP_SIZE[i] = 8 + i, STEP_ADJUST[c] = 3. -/
def built : Parameters where
  codec := {
    stepSize := (List.range 49).map (8 + ·)
    stepAdjust := List.replicate 16 3
    stepSize_length := by decide
    stepSize_pos := by decide
    stepSize_increasing := by decide
    stepAdjust_length := by decide }
  view := ⟨512, 256⟩
  timing := Config.illustrative

/-! ## Well-formedness: each check refuses an ill-formed command -/

theorem test_cwr_wellformed : (Instr.cwr 0x04#8 0#24).wellFormed = true := by decide
theorem test_cwr_reserved_index : (Instr.cwr 0x05#8 0#24).wellFormed = false := by decide
theorem test_cwr_read_only_index : (Instr.cwr 0x10#8 0#24).wellFormed = false := by decide
theorem test_crd_wellformed : (Instr.crd 0x32#8).wellFormed = true := by decide
theorem test_crd_reserved_index : (Instr.crd 0x05#8).wellFormed = false := by decide

/-! ## Decoding: one word per command, from the tables of R73 and R74 (the words of 95_test_vectors.md) -/

theorem test_decode_nop : decode 0x0000000000#40 = some .nop := by decide
theorem test_decode_cwr : decode 0x0103FFFFFF#40 = some (.cwr 0x03#8 0xFFFFFF#24) := by decide
theorem test_decode_crd : decode 0x0232000000#40 = some (.crd 0x32#8) := by decide
theorem test_decode_srst : decode 0x0300000000#40 = some .srst := by decide
theorem test_decode_arst : decode 0x1000000000#40 = some .arst := by decide
theorem test_decode_anrw : decode 0x110000EDCC#40 = some (.anrw 0xEDCC#16) := by decide
theorem test_decode_adec : decode 0x120000000F#40 = some (.adec 0xF#4) := by decide
theorem test_decode_aenc : decode 0x1300000800#40 = some (.aenc 0x800#12) := by decide
theorem test_decode_apck : decode 0x140000000A#40 = some (.apck 0xA#4) := by decide
theorem test_decode_aflush : decode 0x1500000000#40 = some .aflush := by decide
theorem test_decode_aencs : decode 0x160000F000#40 = some (.aencs 0xF000#16) := by decide
theorem test_decode_adecb : decode 0x17000000F7#40 = some (.adecb 0xF7#8) := by decide
theorem test_decode_rrst : decode 0x2000000000#40 = some .rrst := by decide
theorem test_decode_dmix : decode 0x217FFF8000#40 = some (.dmix 0x7FFF#16 0x8000#16) := by decide
theorem test_decode_rsmp : decode 0x220000FFFD#40 = some (.rsmp 0xFFFD#16) := by decide
theorem test_decode_pconv : decode 0x3000123456#40 = some (.pconv 0x12#8 0x34#8 0x56#8) := by decide
theorem test_decode_pbegin : decode 0x31007F0060#40 = some (.pbegin 127#12 96#12) := by decide
theorem test_decode_ppix : decode 0x3200FF0008#40 = some (.ppix 255#8 0#8 8#8) := by decide
theorem test_decode_pend : decode 0x3300000000#40 = some .pend := by decide
theorem test_decode_prd : decode 0x3403FFFFFF#40 = some (.prd 0x3FFFFFF#26) := by decide
theorem test_decode_fvs : decode 0x4000000102#40 = some (.fvs 1#8 2#8) := by decide
theorem test_decode_fsz : decode 0x41000010AA#40 = some (.fsz 4266#24) := by decide
theorem test_decode_frc : decode 0x42000000FF#40 = some (.frc 0xFF#8) := by decide
theorem test_decode_fdur : decode 0x4300000102#40 = some (.fdur 1#1 2#8) := by decide

theorem test_refuse_opcode : decodeOrReason 0x0400000000#40 = .error .reservedOpcode := by decide
theorem test_refuse_bits : decodeOrReason 0x1200000017#40 = .error .reservedBits := by decide
theorem test_refuse_middle_bits : decodeOrReason 0x3100801060#40 = .error .reservedBits := by decide
theorem test_refuse_index : decodeOrReason 0x0110000005#40 = .error .reservedIndex := by decide
theorem test_table_word : decodeTableWord 40 0x1200000007 = some (.adec 7#4) := by decide

/-! ## One step per command (the vectors of 95_test_vectors.md) -/

theorem test_nop_reserved_bit : reply (accept 0x0000000001#40 State.reset) = some (1, 0#32) := by decide
theorem test_cwr_vieww_max : reply (accept 0x0100000180#40 State.reset) = some (0, 0x180#32) := by decide
theorem test_cwr_fout_clears_acc : after (fun t => (t.fout, t.acc)) (accept 0x0104000005#40 ticking) =
    some (5#24, 0#25) := by decide
theorem test_crd_farg_latched : reply (accept 0x0232000000#40 latched) = some (0, 0x007F0060#32) := by decide
theorem test_crd_pks : reply (accept 0x0212000000#40 midway) = some (0, 0x17#32) := by decide
theorem test_srst_clears_latch : after (fun t => (t.fault, t.fop, t.farg, t.vieww)) (accept 0x0300000000#40 latched) =
    some (none, 0#8, 0#32, 0#12) := by decide
theorem test_arst_discards_nibble : after (fun t => (t.si, t.est, t.nph, t.nlo)) (accept 0x1000000000#40 midway) =
    some (0#6, 0#12, false, 0#4) := by decide
theorem test_anrw_minus_17 : reply (accept 0x110000FFEF#40 State.reset) = some (0, 0xFFF#32) := by decide
theorem test_adec_15 : reply (accept 0x120000000F#40 State.reset) = some (0, 0x0008FFE2#32) := by decide
theorem test_adec_clamps : after (fun t => (t.si, t.est))
    (accept 0x1200000005#40 { State.reset with si := 48#6 }) = some (48#6, 2047#12) := by decide
theorem test_aenc_equal_threshold : reply (accept 0x1300000004#40 State.reset) = some (0, 0x00001006#32) := by decide
theorem test_aenc_least : after (fun t => (t.si, t.est))
    (accept 0x1300000800#40 { State.reset with si := 48#6, est := 2047#12 }) = some (48#6, tc 12 (-863)) := by decide
theorem test_apck_first : after (fun t => (t.nph, t.nlo)) (accept 0x1400000005#40 State.reset) = some (true, 5#4) := by
  decide
theorem test_apck_second : reply (accept 0x140000000A#40 { State.reset with nph := true, nlo := 5#4 }) =
    some (0, 0xA540A000#32) := by decide
theorem test_aflush_pending : reply (accept 0x1500000000#40 { State.reset with nph := true, nlo := 5#4 }) =
    some (0, 0x05400000#32) := by decide
theorem test_aencs_step_5 : reply (accept 0x160000F000#40 midway) = some (0, 0xF758FFD7#32) := by decide
theorem test_adecb_70 : reply (accept 0x1700000070#40 State.reset) = some (0, 0x08020002#32) := by decide
/-- By hand from R102 and R101: `d = 64` at `ss = 8` gives code 7, which moves the estimate by 1 + 2 + 4 + 8. -/
theorem test_aencs_other_tables : reply (execWith built (.aencs 0x0400#16) State.reset) = some (0, 0x0003700F#32) := by
  decide
/-- By hand from R117 and R101: code 0 at `ss = 8` gives 1, then code 7 at `ss = 11` adds 1 + 2 + 5 + 11. -/
theorem test_adecb_other_tables : reply (execWith built (.adecb 0x70#8) State.reset) = some (0, 0x06014001#32) := by decide
theorem test_rrst : after State.acc (accept 0x2000000000#40 ticking) = some 0#25 := by decide
theorem test_dmix_negative : reply (accept 0x21FFFFFFFE#40 State.reset) = some (0, 0x0000FFFF#32) := by decide
theorem test_rsmp_emits : reply (accept 0x2200008000#40 ticking) = some (0, 0x00018000#32) ∧
    after State.acc (accept 0x2200008000#40 ticking) = some 14500#25 := by decide
theorem test_rsmp_unconfigured : after (fun t => (t.fault, t.fop, t.farg)) (accept 0x2200000005#40 State.reset) =
    some (some .param, 0x22#8, 5#32) := by decide
theorem test_pconv_default : reply (accept 0x3000FF0008#40 State.reset) = some (0, 0x07C3#32) := by decide
theorem test_pconv_intensity : reply (accept 0x3000070707#40 { State.reset with auxm := .intensityMode }) =
    some (0, 0x0001#32) := by decide
theorem test_pbegin_opens : reply (accept 0x3100020002#40 small) = some (0, 0x0000000C#32) := by decide
theorem test_pbegin_width : reply (accept 0x31007F0061#40 viewed) = some (3, 0#32) := by decide
theorem test_ppix_stores : after State.pixbuf (accept 0x3200FF0008#40 drawing) =
    some ⟨[(2, 0xFF#8), (3, 0xFF#8), (6, 0x07#8), (7, 0xC3#8)]⟩ := by decide
theorem test_ppix_closed : reply (accept 0x3200000005#40 closed) = some (4, 0#32) := by decide
theorem test_pend_counts : reply (accept 0x3300000000#40 drawn) = some (0, 4#32) := by decide
theorem test_pend_early : reply (accept 0x3300000000#40 drawing) = some (4, 0#32) := by decide
theorem test_prd_low_byte : reply (accept 0x3400000007#40 closed) = some (0, 0xC3#32) := by decide
theorem test_prd_outside : reply (accept 0x340000000C#40 closed) = some (2, 0#32) := by decide
theorem test_fvs_fallback : ended (ruleFvs Config.illustrative 0#8 1#8 State.reset) = .ok 260#32 := by decide
theorem test_fvs_calibrated : ended (ruleFvs calibrated 0#8 1#8 State.reset) = .ok 261#32 := by decide
theorem test_fsz_1007 : reply (accept 0x41000003EF#40 viewed) = some (0, 0x6800#32) := by decide
theorem test_fsz_unconfigured : reply (accept 0x4100000208#40 State.reset) = some (2, 0#32) := by decide
theorem test_frc_one : ended (ruleFrc Config.illustrative 1#8 State.reset) = .ok 0x00010002#32 := by decide
theorem test_frc_outside : ended (ruleFrc Config.illustrative 2#8 State.reset) = .error .param := by decide
theorem test_fdur_second : ended (ruleFdur Config.illustrative 1#1 1#8 State.reset) = .ok 0x1E#32 := by decide
theorem test_fdur_outside : ended (ruleFdur Config.illustrative 0#1 2#8 State.reset) = .error .param := by decide

/-! ## The latch, the port, the tables, the written form -/

theorem test_latched_refuses : reply (accept 0x1200000007#40 latched) = some (5, 0#32) := by decide
theorem test_latched_refuses_garbage : reply (accept 0xFF00000000#40 latched) = some (5, 0#32) := by decide
theorem test_latched_bad_crd : after (fun t => (t.fault, t.replies.getLast?)) (accept 0x0205000000#40 latched) =
    some (some .format, some ⟨1#4, 0#32⟩) := by decide
theorem test_fetch_word : reply (step (State.reset.withFetchWord 40 0x1200000007)) = some (0, 0x0008701E#32) := by decide
theorem test_hardware_reset : after (fun t => (t.acc, t.replies.length))
    (step { ticking with port := [.hardwareReset] }) = some (0#25, 0) := by decide

/-- The default STEP_SIZE is `floor(16 * 1.1^n)` (R52, the generator sentence). -/
theorem test_step_size_generator :
    Config.codec.stepSize = (List.range 49).map fun n => 16 * 11 ^ n / 10 ^ n := by decide

theorem test_asm_cwr : asm (.cwr 0x03#8 48000#24) = "CWR FIN, 48000" := by decide
theorem test_asm_dmix : asm (.dmix 0xFFFD#16 0xFFFC#16) = "DMIX -3, -4" := by decide
theorem test_asm_srst : asm .srst = "SRST" := by decide
theorem test_pack_stream_odd : packStream [15#4, 3#4, 0#4, 8#4, 7#4] = [0x3F#8, 0x80#8, 0x07#8] := by decide
theorem test_pcm_operands : pcmOperands [0x12#8, 0x34#8, 0xFF#8] = [0x1234#16] := by decide

/-! ## Witnesses: for each statement with hypotheses, a state and operands that meet them -/

theorem witness_DecodeEncodeRoundTrip :
    (Instr.cwr 0x04#8 0xFFFFFF#24).wellFormed = true ∧ (Instr.crd 0x32#8).wellFormed = true := by decide

theorem witness_EncodeDecodeRoundTrip : decode 0x0104FFFFFF#40 = some (.cwr 0x04#8 0xFFFFFF#24) := by decide

theorem witness_IllegalExactly :
    State.reset.fault = none ∧ latched.fault ≠ none ∧ (0x0205000000#40).toNat / 2 ^ 32 = 0x02 ∧
    (0x0000000001#40).toNat / 2 ^ 32 = 0x00 ∧ (0x0300000001#40).toNat / 2 ^ 32 = 0x03 := by decide

theorem witness_StepRunsTheDecodedCommand :
    ({ State.reset with port := [.command 0x1200000007#40] } : State).port = .command 0x1200000007#40 :: [] ∧
    decode 0x1200000007#40 = some (.adec 7#4) := by decide

theorem witness_StepOnEverythingElse :
    decode 0x0400000000#40 = none ∧ State.reset.fault = none ∧ latched.fault = some .format ∧
    decode 0x0205000000#40 = none ∧ State.reset.port = [] ∧
    ({ latched with port := [.command 0x0205000000#40] } : State).port = .command 0x0205000000#40 :: [] ∧
    ({ ticking with port := [.hardwareReset] } : State).port = .hardwareReset :: [] := by decide

theorem witness_EveryStepAnswersOnce :
    ({ latched with port := [.command 0#40] } : State).port = .command 0#40 :: [] ∧
    ({ latched with port := [.hardwareReset] } : State).port = .hardwareReset :: [] := by decide

theorem witness_ResetLeavesTheResetValues :
    State.reset = State.reset ∧ perAction .hardwareReset latched = .next latched.resetBlock ∧
    exec .srst latched = .next (latched.resetBlock.answer (okResponse 0#32)) := ⟨rfl, rfl, rfl⟩

theorem drawing_inv : drawing.Inv where
  codec := by unfold State.codecInv; decide
  packer := by unfold State.packerInv; decide
  resampler := by unfold State.resamplerInv; decide
  view := by unfold State.viewInv; decide
  raster := by unfold State.rasterInv; decide
  buffer := by unfold State.bufferInv; decide
  latch := by unfold State.latchInv; decide
  replies := fun r h => by cases h

theorem witness_EveryStepKeepsInv : drawing.Inv ∧ step drawing = .next drawing ∧
    step { drawing with port := [.command 0x3300000000#40] } =
      .next { drawing with fault := some .seq, fop := 0x33#8, replies := [⟨4#4, 0#32⟩] } :=
  ⟨drawing_inv, rfl, rfl⟩

theorem witness_LatchedBlockAborts :
    latched.fault ≠ none ∧ (0xFF00000000#40).extractLsb' 32 8 ∉ [0x00#8, 0x02#8, 0x03#8] ∧
    ¬ RunsLatched (.adec 7#4) := by
  refine ⟨by decide, by decide, ?_⟩
  rintro (h | ⟨idx, h⟩ | h) <;> cases h

theorem witness_ErrorsArePrecise :
    accept 0x31007F0060#40 viewed = .next { latched with replies := [⟨3#4, 0#32⟩] } ∧
    accept 0x0205000000#40 latched = .next { latched with replies := [⟨1#4, 0#32⟩] } ∧
    1 ≤ (1#4).toNat ∧ (3#4).toNat ≤ 4 := ⟨rfl, rfl, by decide, by decide⟩

theorem witness_FirstErrorStays :
    latched.fault ≠ none ∧ step latched = .next latched ∧
    step { latched with port := [.hardwareReset] } = .next State.reset := ⟨by decide, rfl, rfl⟩

theorem witness_ParamErrorExactly :
    viewed.fault = none ∧ closed.fault = none ∧ (Instr.cwr 0x00#8 385#24).wellFormed = true ∧
    reply (exec (.cwr 0x00#8 385#24) viewed) = some (2, 0#32) ∧
    reply (exec (.cwr 0x01#8 257#24) viewed) = some (2, 0#32) ∧
    reply (exec (.cwr 0x02#8 2#24) viewed) = some (2, 0#32) ∧
    reply (exec (.pbegin 128#12 97#12) viewed) = some (2, 0#32) ∧
    reply (exec (.prd 12#26) closed) = some (2, 0#32) ∧ reply (exec (.prd 11#26) closed) = some (0, 0#32) := by decide

theorem witness_FormatErrorExactly :
    viewed.fault = none ∧ viewed.pst ≠ .opened ∧ viewed.ViewConfigured ∧
    reply (exec (.pbegin 129#12 96#12) viewed) = some (3, 0#32) ∧
    reply (exec (.pbegin 128#12 96#12) viewed) = some (0, 0x6000#32) ∧
    reply (exec (.pbegin 128#12 97#12) viewed) = some (2, 0#32) := by
  refine ⟨rfl, by decide, ⟨by decide, by decide⟩, by decide, by decide, by decide⟩

theorem witness_SequenceErrorExactly :
    drawn.fault = none ∧ drawing.fault = none ∧ State.reset.fault = none ∧
    reply (exec (.pbegin 2#12 2#12) drawing) = some (4, 0#32) ∧ reply (exec (.ppix 0#8 0#8 0#8) drawn) = some (4, 0#32) ∧
    reply (exec .pend drawing) = some (4, 0#32) ∧ reply (exec (.prd 0#26) State.reset) = some (4, 0#32) := by decide

theorem witness_RegistersChangeOnlyByTheirWriters :
    after State.est (exec (.adec 7#4) State.reset) ≠ some State.reset.est ∧
    after State.nph (exec (.apck 7#4) State.reset) ≠ some State.reset.nph ∧
    after State.acc (exec (.rsmp 0#16) ticking) ≠ some ticking.acc ∧
    after State.fin (exec (.cwr 0x03#8 5#24) ticking) ≠ some ticking.fin ∧
    after State.fout (exec (.cwr 0x04#8 5#24) ticking) ≠ some ticking.fout ∧
    after State.vieww (exec (.cwr 0x00#8 5#24) small) ≠ some small.vieww ∧
    after State.viewh (exec (.cwr 0x01#8 5#24) small) ≠ some small.viewh ∧
    after State.auxm (exec (.cwr 0x02#8 1#24) small) ≠ some small.auxm ∧
    after State.pst (exec (.pbegin 2#12 2#12) small) ≠ some small.pst ∧
    after State.pcur (exec (.ppix 0#8 0#8 0#8) drawing) ≠ some drawing.pcur ∧
    after State.plim (exec (.pbegin 2#12 2#12) small) ≠ some small.plim ∧
    after State.pixbuf (exec (.ppix 255#8 0#8 8#8) drawing) ≠ some drawing.pixbuf ∧
    after State.fault (exec (.prd 0#26) State.reset) ≠ some State.reset.fault := by decide

theorem witness_RasterStateTransitions :
    after State.pst (exec (.pbegin 2#12 2#12) small) = some .opened ∧ after State.pst (exec .pend drawn) = some .done ∧
    after State.pst (exec .srst drawn) = some .idle ∧ after State.pst (perAction .hardwareReset closed) = some .idle ∧
    after (fun t => lastStatus t.replies) (exec .pend drawn) = some (some 0#4) := by decide

theorem witness_ReadsAndPureCommandsChangeNothing :
    reply (exec (.prd 6#26) closed) = some (0, 7#32) ∧ reply (exec (.prd 12#26) closed) = some (2, 0#32) ∧
    (Instr.prd 6#26).opcode ∈ [Opcode.nop, .crd, .anrw, .dmix, .pconv, .prd, .fvs, .fsz, .frc, .fdur] := by decide

theorem witness_PortIsNoStateOfTheBlock :
    closed.SameBlock { closed with port := [.hardwareReset], replies := [⟨5#4, 0#32⟩] } := rfl

/-- Two states that differ in a byte outside the active part alone. -/
theorem witness_UnspecifiedBytesAreUnobservable :
    closed.pixbuf.wf ∧ (Memory.mk [(20, 1#8)]).wf ∧
    ({ State.reset with pixbuf := Memory.cleared } : State) =
      { { State.reset with pixbuf := ⟨[(20, 1#8)]⟩ } with pixbuf := Memory.cleared } ∧
    ∀ a, State.reset.memRead a = ({ State.reset with pixbuf := ⟨[(20, 1#8)]⟩ } : State).memRead a :=
  ⟨by decide, by decide, rfl, fun _ => rfl⟩

theorem witness_NopAnswersZero : (1#32 : Word32) ≠ 0#32 := by decide

theorem witness_CwrWritesTheRegister :
    ticking.fault = none ∧ 1 ≤ (1#24).toNat ∧ (384#24).toNat ≤ Config.maxViewW ∧ ¬ (385#24).toNat ≤ Config.maxViewW ∧
    (256#24).toNat ≤ Config.maxViewH ∧ ¬ (257#24).toNat ≤ Config.maxViewH ∧ ¬ 1 ≤ (0#24).toNat ∧ 2 ≤ (2#24).toNat ∧
    (0xFFFFFF#24) ≠ 0#24 ∧ 0x04 < (0x05#8).toNat ∧
    (512#24).toNat ≤ built.view.maxW ∧ ¬ (513#24).toNat ≤ built.view.maxW ∧ (256#24).toNat ≤ built.view.maxH ∧
    ¬ (257#24).toNat ≤ built.view.maxH ∧ (512#24).toNat < 2 ^ 12 := by decide

theorem witness_CrdReadsEveryRegister :
    ¬ Instr.crdIndexOk 0x05#8 ∧ State.reset.fault = none ∧ latched.fault ≠ none := by decide

theorem witness_SrstResetsLikeHardware : (0x80000000#32 : Word32) ≠ 0#32 ∧ latched.fault ≠ none ∧
    after State.fault (exec .srst latched) = some none := by decide

theorem witness_AdpcmDeltaFormula : 8 ≤ 8 ∧ adpcmDelta 8#4 8 = -1 := by decide

theorem witness_AdpcmDecodeSaturates :
    Config.codec.stepSize[48]? = some 1552 ∧ Config.codec.stepAdjust[(15#4).toNat]? = some 8 ∧ 48 ≤ 48 := by decide

theorem witness_AdpcmEncodeQuantises : Config.codec.stepSize[0]? = some 16 := by decide

theorem witness_EncoderDecoderLockstep : midway.fault = none := rfl

theorem witness_PackStreamIsPackSteps :
    (packStream [5#4, 10#4])[0]? = some 0xA5#8 ∧ 2 * 0 + 1 < [5#4, 10#4].length ∧
    (packStream [5#4])[0]? = some 0x05#8 ∧ [5#4].length ≤ 2 * 0 + 1 := by decide

/-- ARST, ADEC, AENC, AENCS, ADECB, ANRW, DMIX, PCONV and RRST ask for an unlatched block and nothing else. -/
theorem witness_ArstStartsAPass : midway.fault = none := rfl
theorem witness_AnrwNarrowsTowardZero : midway.fault = none := rfl
theorem witness_AdecDecodesOneCode : midway.fault = none := rfl
theorem witness_AencEncodesOneSample : midway.fault = none := rfl
theorem witness_AencsIsNarrowEncodePack : midway.fault = none := rfl
theorem witness_AdecbIsTwoAdecs : midway.fault = none := rfl
theorem witness_RrstClearsTheAccumulator : ticking.fault = none := rfl
theorem witness_DmixAveragesTowardZero : ticking.fault = none := rfl
theorem witness_PconvConverts : drawing.fault = none := rfl

theorem witness_ApckPacksOneCode :
    State.reset.fault = none ∧ State.reset.nph = false ∧ midway.fault = none ∧ midway.nph = true := by decide

theorem witness_AflushEndsACodeStream :
    State.reset.fault = none ∧ State.reset.nph = false ∧ midway.fault = none ∧ midway.nph = true := by decide

/-- The three cases of a tick, the two of a configured one at their common boundary: a sum of FIN and of FIN - 1. -/
theorem witness_RsmpTicks :
    (State.reset.fault = none ∧ State.reset.fin = 0#24) ∧
    (ticking.fault = none ∧ ticking.fin ≠ 0#24 ∧ ticking.fout ≠ 0#24 ∧ ticking.fout.toNat ≤ ticking.fin.toNat) ∧
    (let s := { ticking with acc := 32375#25 }
     s.acc.toNat < s.fin.toNat ∧ s.fin.toNat = s.acc.toNat + s.fout.toNat) ∧
    (let s := { ticking with acc := 32374#25 }
     s.acc.toNat < s.fin.toNat ∧ s.acc.toNat + s.fout.toNat = s.fin.toNat - 1) := by decide

theorem witness_ResampleCountIsExact : 1 ≤ 1 ∧ 15625 ≤ 48000 := by decide

/-- PBEGIN's five cases, each at its boundary. -/
theorem witness_PbeginOpensARaster :
    (drawing.fault = none ∧ drawing.pst = .opened) ∧
    (State.reset.pst ≠ .opened ∧ ¬ State.reset.ViewConfigured) ∧
    (viewed.fault = none ∧ viewed.pst ≠ .opened ∧ viewed.ViewConfigured ∧ 127#12 ≠ viewed.vieww) ∧
    (128#12 = viewed.vieww ∧ viewed.viewh.toNat < (97#12).toNat) ∧ (96#12).toNat ≤ viewed.viewh.toNat := by
  refine ⟨by decide, ⟨by decide, fun h => h.1 rfl⟩, ⟨rfl, by decide, ⟨by decide, by decide⟩, by decide⟩, by decide, by decide⟩

theorem witness_PpixStoresAPixel :
    (closed.fault = none ∧ closed.pst ≠ .opened) ∧ (drawn.fault = none ∧ drawn.plim.toNat ≤ drawn.pcur.toNat) ∧
    (drawing.fault = none ∧ drawing.pst = .opened ∧ drawing.pcur.toNat < drawing.plim.toNat ∧ drawing.pixbuf.wf) := by
  decide

theorem witness_PendClosesTheRaster :
    (closed.fault = none ∧ closed.pst ≠ .opened) ∧ (drawing.fault = none ∧ drawing.pcur ≠ drawing.plim) ∧
    (drawn.fault = none ∧ drawn.pst = .opened ∧ drawn.pcur = drawn.plim) := by decide

theorem witness_PrdReadsOneByte :
    (State.reset.fault = none ∧ State.reset.pst = .idle) ∧
    (closed.fault = none ∧ closed.pst ≠ .idle ∧ closed.pbytes.toNat ≤ (12#26).toNat) ∧
    (11#26).toNat < closed.pbytes.toNat := by decide

/-- The block's own tables have a first class and a first frame rate (R5). -/
theorem witness_FvsLooksUpOrFallsBack :
    Config.illustrative.nrc ≤ (2#8).toNat ∧ (1#8).toNat < Config.illustrative.nrc ∧
    (1#8).toNat < Config.illustrative.nfps ∧ Config.illustrative.cal 1 1 = none ∧ calibrated.cal 0 1 = some 261 ∧
    viewed.fault = none ∧ (0#8).toNat < timing.nrc ∧ (0#8).toNat < timing.nfps :=
  ⟨by decide, by decide, by decide, rfl, by decide, rfl, Config.timing.legal.nrc_range.1,
    Config.timing.legal.nfps_range.1⟩

theorem witness_FvsFixedPoints : viewed.fault = none := rfl

theorem witness_FrameSizeRoundsUp : 1024 ∣ 25600 ∧ 25600 ≤ 25600 := by decide

theorem witness_FszAnswersTheFrameSize :
    (viewed.fault = none ∧ viewed.ViewConfigured) ∧ (State.reset.fault = none ∧ ¬ State.reset.ViewConfigured) :=
  ⟨⟨rfl, by decide, by decide⟩, rfl, fun h => h.1 rfl⟩

theorem witness_FrcAnswersTheRateCode :
    Config.illustrative.nrc ≤ (2#8).toNat ∧ (1#8).toNat < Config.illustrative.nrc ∧
    viewed.fault = none ∧ (0#8).toNat < timing.nrc :=
  ⟨by decide, by decide, rfl, Config.timing.legal.nrc_range.1⟩

theorem witness_FdurAnswersADurationField :
    Config.illustrative.nfps ≤ (2#8).toNat ∧ (1#8).toNat < Config.illustrative.nfps ∧
    viewed.fault = none ∧ (0#8).toNat < timing.nfps :=
  ⟨by decide, by decide, rfl, Config.timing.legal.nfps_range.1⟩

theorem witness_EncstreamComputesEncodeStream : midway.fault = none := rfl

theorem witness_DecstreamComputesDecodeStream : midway.fault = none ∧ [0x70#8, 0xF7#8, 0x0F#8].length = (5 + 1) / 2 := by
  decide

theorem witness_ResampleComputesResampleStream :
    ticking.fault = none ∧ ticking.fin ≠ 0#24 ∧ ticking.fout ≠ 0#24 ∧ ticking.fout.toNat ≤ ticking.fin.toNat := by decide

/-- A short raster of one row and a full one of three, each with its pixels. -/
theorem witness_PackrasterFillsTheBuffer :
    small.fault = none ∧ small.pst ≠ .opened ∧ small.ViewConfigured ∧ (3#12).toNat ≤ small.viewh.toNat ∧
    (List.replicate 6 ((0#8, 0#8, 0#8) : Rgb)).length = small.vieww.toNat * (3#12).toNat ∧
    (List.replicate 2 ((7#8, 7#8, 7#8) : Rgb)).length = small.vieww.toNat * (1#12).toNat := by
  refine ⟨rfl, by decide, ⟨by decide, by decide⟩, by decide, by decide, by decide⟩

end Sys2Proof.Tests
end

/-! SUPPORT. What a completed command does to the registers, said once for all 24 commands: `Completes` names the update
and its guards, and the frame of each register, of PIXBUF and of the latch follows from it by cases. -/

namespace Sys2Proof.Machine

variable {P : Parameters} {i : Instr} {s t u : State} {d : Word32}

/-- The commands that leave the whole block as it is when they complete. -/
abbrev pureOpcodes : List Opcode := [.nop, .crd, .anrw, .dmix, .pconv, .prd, .fvs, .fsz, .frc, .fdur]

/-- `Completes P s i u`: the command `i` may complete on `s` with its registers as in `u`. Each constructor is one named
update with the guards its rule has checked. -/
inductive Completes (P : Parameters) (s : State) : Instr → State → Prop where
  | unchanged {i : Instr} (hi : i.opcode ∈ pureOpcodes) : Completes P s i s
  | configured (r : Reg) (val : BitVec 24) (hw : r.writable = true) (hl : cfgLegal P.view r val = true) :
      Completes P s (.cwr r.index val) (s.writeCfg r val)
  | reset : Completes P s .srst s.resetBlock
  | passStarted : Completes P s .arst ((s.setCodec 0 0).setPacker (false, 0#4))
  | coded {i : Instr} (est si : Int) (hi : i.opcode ∈ [Opcode.adec, .aenc, .adecb]) (h0 : 0 ≤ si) (h48 : si ≤ 48) :
      Completes P s i (s.setCodec est si)
  | packed {i : Instr} (p : Bool × Code) (hi : i.opcode ∈ [Opcode.apck, .aflush])
      (hp : p = s.packer ∨ (p.1 = false → p.2 = 0#4)) : Completes P s i (s.setPacker p)
  | codedAndPacked (s16 : BitVec 16) (est si : Int) (p : Bool × Code) (h0 : 0 ≤ si) (h48 : si ≤ 48)
      (hp : p.1 = false → p.2 = 0#4) : Completes P s (.aencs s16) ((s.setCodec est si).setPacker p)
  | accCleared : Completes P s .rrst (s.setAcc 0)
  | ticked (s16 : BitVec 16) (hfin : s.fin ≠ 0#24) (hle : s.fout.toNat ≤ s.fin.toNat) :
      Completes P s (.rsmp s16) (s.setAcc (resampleStep s.acc.toNat s.fin.toNat s.fout.toNat).1)
  | rasterOpened (w h : BitVec 12) (hp : s.pst ≠ .opened) (hw : w = s.vieww) (hh : h.toNat ≤ s.viewh.toNat) :
      Completes P s (.pbegin w h) (s.openRaster w h)
  | pixelStored (r g b : BitVec 8) (hp : s.pst = .opened) (hlt : s.pcur.toNat < s.plim.toNat) :
      Completes P s (.ppix r g b) (s.storePixel (packColor r g b s.auxm))
  | rasterClosed (hp : s.pst = .opened) (hall : s.pcur = s.plim) : Completes P s .pend s.closeRaster

/-! ## The functions the rules call -/

theorem clamp_bounds (x : Int) {lo hi : Int} (h : lo ≤ hi) : lo ≤ clamp x lo hi ∧ clamp x lo hi ≤ hi := by
  unfold clamp
  split
  · omega
  · split <;> omega

/-- The index a decoding step leaves is one of the table's (R23, R101). -/
theorem adpcmDecode_index_bounds (T : CodecTables) (code : Code) (si : Nat) (est : Int) :
    0 ≤ (adpcmDecode T code si est).2 ∧ (adpcmDecode T code si est).2 ≤ 48 :=
  clamp_bounds _ (by decide)

/-- A decoding step writes an estimate and a table index. -/
theorem State.decodeCode_eq_setCodec (T : CodecTables) (s : State) (code : Code) :
    ∃ est si : Int, s.decodeCode T code = s.setCodec est si ∧ 0 ≤ si ∧ si ≤ 48 :=
  ⟨_, _, rfl, adpcmDecode_index_bounds T code (zext s.si) (sext s.est)⟩

/-- So does an encoding step, which ends in the decoder (R107). -/
theorem State.encodeSample_eq_setCodec (T : CodecTables) (s : State) (sample : Int) :
    ∃ est si : Int, s.encodeSample T sample = s.setCodec est si ∧ 0 ≤ si ∧ si ≤ 48 :=
  s.encodeSample_eq T sample ▸ s.decodeCode_eq_setCodec T _

/-- Nothing is held unless the packer says so (R24, R104). -/
theorem packStep_held (p : Bool × Code) (code : Code) :
    (packStep p code).1.1 = false → (packStep p code).1.2 = 0#4 := by
  unfold packStep
  split <;> simp

/-- A flush empties a packer that holds a nibble and leaves any other as it is (R106). -/
theorem packFlush_held (p : Bool × Code) :
    (packFlush p).1 = p ∨ ((packFlush p).1.1 = false → (packFlush p).1.2 = 0#4) := by
  unfold packFlush
  split <;> simp

/-! ## Every completed command is one of these updates -/

/-- What CWR's rule has checked when it completes (R177). -/
theorem ruleCwr_ok {L : ViewLimits} {idx : BitVec 8} {val : BitVec 24} (h : ruleCwr L idx val s = .ok (u, d)) :
    ∃ r : Reg, idx = r.index ∧ r.writable = true ∧ cfgLegal L r val = true ∧ u = s.writeCfg r val := by
  unfold ruleCwr at h
  cases hr : Reg.ofIndex idx with
  | none => simp [hr] at h
  | some r =>
    simp only [hr] at h
    split at h
    · split at h
      · simp only [Except.ok.injEq, Prod.mk.injEq] at h
        exact ⟨r, (Reg.index_of_ofIndex hr).symm, ‹_›, ‹_›, h.1.symm⟩
      · cases h
    · cases h

theorem ruleCrd_ok {idx : BitVec 8} (h : ruleCrd idx s = .ok (u, d)) : u = s := by
  unfold ruleCrd at h
  split at h <;> simp_all

/-- What RSMP's rule has checked when it completes (R135). -/
theorem ruleRsmp_ok {s16 : BitVec 16} (h : ruleRsmp s16 s = .ok (u, d)) :
    s.fin ≠ 0#24 ∧ s.fout.toNat ≤ s.fin.toNat ∧
      u = s.setAcc (resampleStep s.acc.toNat s.fin.toNat s.fout.toNat).1 := by
  unfold ruleRsmp at h
  split at h
  · cases h
  · simp only [Except.ok.injEq, Prod.mk.injEq] at h
    rename_i hc
    simp only [not_or, not_lt] at hc
    exact ⟨hc.1, hc.2.2, h.1.symm⟩

/-- What PBEGIN's rule has checked when it completes (R145). -/
theorem rulePbegin_ok {w h : BitVec 12} (hok : rulePbegin w h s = .ok (u, d)) :
    s.pst ≠ .opened ∧ w = s.vieww ∧ h.toNat ≤ s.viewh.toNat ∧ u = s.openRaster w h := by
  unfold rulePbegin at hok
  split at hok
  · cases hok
  split at hok
  · cases hok
  split at hok
  · cases hok
  split at hok
  · cases hok
  simp only [Except.ok.injEq, Prod.mk.injEq] at hok
  exact ⟨‹_›, by simp_all, by omega, hok.1.symm⟩

/-- What PPIX's rule has checked when it completes (R147). -/
theorem rulePpix_ok {r g b : BitVec 8} (h : rulePpix r g b s = .ok (u, d)) :
    s.pst = .opened ∧ s.pcur.toNat < s.plim.toNat ∧ u = s.storePixel (packColor r g b s.auxm) := by
  unfold rulePpix at h
  split at h
  · cases h
  split at h
  · cases h
  simp only [Except.ok.injEq, Prod.mk.injEq] at h
  exact ⟨by simp_all, by omega, h.1.symm⟩

/-- What PEND's rule has checked when it completes (R148). -/
theorem rulePend_ok (h : rulePend s = .ok (u, d)) : s.pst = .opened ∧ s.pcur = s.plim ∧ u = s.closeRaster := by
  unfold rulePend at h
  split at h
  · cases h
  split at h
  · cases h
  simp only [Except.ok.injEq, Prod.mk.injEq] at h
  exact ⟨by simp_all, by simp_all, h.1.symm⟩

/-- A rule of a pure command that completes leaves the state it started from. -/
theorem ruleOf_ok_of_pure (hi : i.opcode ∈ pureOpcodes) (h : ruleOf P i s = .ok (u, d)) : u = s := by
  cases i <;> simp [Instr.opcode] at hi
  case crd idx => exact ruleCrd_ok h
  case nop | anrw | dmix | pconv =>
    simp only [ruleOf, ruleNop, ruleAnrw, ruleDmix, rulePconv, Except.ok.injEq, Prod.mk.injEq] at h
    exact h.1.symm
  case prd | fvs | fsz | frc | fdur =>
    simp only [ruleOf, ruleFvs, ruleFsz, ruleFrc, ruleFdur] at h
    repeat' split at h
    all_goals simp_all

/-- Every command that completes makes one of the updates of `Completes`. -/
theorem completes_of_ok (h : ruleOf P i s = .ok (u, d)) : Completes P s i u := by
  by_cases hi : i.opcode ∈ pureOpcodes
  · exact ruleOf_ok_of_pure hi h ▸ .unchanged hi
  cases i <;> simp [Instr.opcode] at hi
  case cwr idx val =>
    obtain ⟨r, rfl, hw, hl, rfl⟩ := ruleCwr_ok h
    exact .configured r val hw hl
  case rsmp s16 =>
    obtain ⟨hfin, hle, rfl⟩ := ruleRsmp_ok h
    exact .ticked s16 hfin hle
  case pbegin w h' =>
    obtain ⟨hp, hw, hh, rfl⟩ := rulePbegin_ok h
    exact .rasterOpened w h' hp hw hh
  case ppix r g b =>
    obtain ⟨hp, hlt, rfl⟩ := rulePpix_ok h
    exact .pixelStored r g b hp hlt
  case pend =>
    obtain ⟨hp, hall, rfl⟩ := rulePend_ok h
    exact .rasterClosed hp hall
  all_goals
    simp only [ruleOf, ruleSrst, ruleArst, ruleAdec, ruleAenc, ruleApck, ruleAflush, ruleAencs, ruleAdecb, ruleRrst,
      Except.ok.injEq, Prod.mk.injEq] at h
    obtain ⟨rfl, -⟩ := h
  case srst => exact .reset
  case arst => exact .passStarted
  case adec code =>
    obtain ⟨est, si, heq, h0, h48⟩ := s.decodeCode_eq_setCodec P.codec code
    exact heq ▸ .coded est si (by simp [Instr.opcode]) h0 h48
  case aenc s12 =>
    obtain ⟨est, si, heq, h0, h48⟩ := s.encodeSample_eq_setCodec P.codec (sext s12)
    exact heq ▸ .coded est si (by simp [Instr.opcode]) h0 h48
  case adecb byte =>
    obtain ⟨est₁, si₁, heq₁, -⟩ := s.decodeCode_eq_setCodec P.codec (lowCode byte)
    obtain ⟨est, si, heq, h0, h48⟩ := (s.setCodec est₁ si₁).decodeCode_eq_setCodec P.codec (highCode byte)
    rw [heq₁, heq]
    exact .coded est si (by simp [Instr.opcode]) h0 h48
  case apck code => exact .packed _ (by simp [Instr.opcode]) (.inr (packStep_held _ _))
  case aflush => exact .packed _ (by simp [Instr.opcode]) (packFlush_held _)
  case aencs s16 =>
    obtain ⟨est, si, heq, h0, h48⟩ := s.encodeSample_eq_setCodec P.codec (narrow (sext s16))
    exact heq ▸ .codedAndPacked s16 est si _ h0 h48 (packStep_held _ _)
  case rrst => exact .accCleared

end Sys2Proof.Machine

/-! SUPPORT. The invariant: each named update of the state keeps it, hence every completed command, every accepted word and
every step. -/

namespace Sys2Proof.Machine

variable {i : Instr} {s t u : State}

/-! ## Responses are proper (R71, R190) -/

theorem okResponse_proper (data : Word32) : (okResponse data).proper := by simp [okResponse, Response.proper]

theorem errorResponse_proper (e : ErrorCode) : (errorResponse e).proper := by
  cases e <;> simp [errorResponse, ErrorCode.code, Response.proper]

theorem abortedResponse_proper : abortedResponse.proper := by simp [abortedResponse, Response.proper]

/-! ## Each update keeps the invariant -/

theorem State.reset_inv : State.reset.Inv where
  codec := by simp [State.codecInv, State.reset]
  packer := fun _ => rfl
  resampler := by simp [State.resamplerInv, State.reset]
  view := by simp [State.viewInv, State.reset]
  raster := by simp [State.rasterInv, State.reset]
  buffer := by simp [State.bufferInv, State.reset, Memory.wf]
  latch := fun _ => ⟨rfl, rfl⟩
  replies := by simp [State.repliesInv, State.reset]

namespace State.Inv

theorem takeFromPort (h : s.Inv) (rest : List HostAction) : ({ s with port := rest } : State).Inv := { h with }

theorem answer (h : s.Inv) {r : Response} (hr : r.proper) : (s.answer r).Inv where
  __ := h
  replies := by
    intro q hq
    rcases List.mem_append.1 hq with hq | hq
    · exact h.replies q hq
    · exact List.mem_singleton.1 hq ▸ hr

theorem abort (h : s.Inv) : s.abort.Inv := h.answer abortedResponse_proper

/-- Latching an error leaves FAULT set, so nothing is asked of FOP and FARG. -/
theorem recordError (h : s.Inv) (e : ErrorCode) (w : CommandWord) : (s.latch e w).Inv := by
  cases hf : s.fault with
  | none => exact s.latch_of_clear e w hf ▸ { h with latch := fun hn => by cases hn }
  | some e' => exact (s.latch_of_set e w hf).symm ▸ h

theorem fail (h : s.Inv) (e : ErrorCode) (w : CommandWord) : (s.fail e w).Inv :=
  (h.recordError e w).answer (errorResponse_proper e)

theorem setCodec (h : s.Inv) (est : Int) {si : Int} (h0 : 0 ≤ si) (h48 : si ≤ 48) : (s.setCodec est si).Inv where
  __ := h
  codec := by
    show (BitVec.ofInt 6 si).toNat ≤ 48
    rw [BitVec.toNat_ofInt]
    omega

theorem setPacker (h : s.Inv) {p : Bool × Code} (hp : p.1 = false → p.2 = 0#4) : (s.setPacker p).Inv :=
  { h with packer := hp }

theorem setAcc (h : s.Inv) {n : Nat} (h0 : s.fin = 0#24 → n = 0) (hlt : s.fin ≠ 0#24 → n < s.fin.toNat) :
    (s.setAcc n).Inv where
  __ := h
  resampler := by
    refine ⟨fun hf => ?_, fun hf => ?_⟩
    · simp [h0 hf]
    · have := hlt hf
      rw [State.setAcc_acc, State.setAcc_fin, BitVec.toNat_ofNat]
      omega

/-- A tick leaves the accumulator below FIN (R133, R137): `ACC < FIN` and `FOUT ≤ FIN` bound the sum by `2*FIN`. -/
theorem tick (h : s.Inv) (hfin : s.fin ≠ 0#24) (hle : s.fout.toNat ≤ s.fin.toNat) :
    (s.setAcc (resampleStep s.acc.toNat s.fin.toNat s.fout.toNat).1).Inv := by
  have hacc := h.resampler.2 hfin
  refine h.setAcc (fun h0 => absurd h0 hfin) fun _ => ?_
  unfold resampleStep
  split <;> simp only <;> omega

/-- A legal configuration value is in its register's limits, and FIN and FOUT clear ACC (R4, R177). -/
theorem writeCfg (h : s.Inv) {r : Reg} {val : BitVec 24} (hw : r.writable = true)
    (hl : cfgLegal Parameters.block.view r val = true) : (s.writeCfg r val).Inv := by
  obtain ⟨hvw, hvh⟩ := h.view
  cases r <;> simp [Reg.writable] at hw <;> simp only [cfgLegal, decide_eq_true_eq] at hl
  case vieww =>
    refine { h with view := ⟨?_, hvh⟩ }
    simp only [writeCfg_vieww_vieww, BitVec.toNat_setWidth] at hl ⊢
    exact (Nat.mod_le _ _).trans hl.2
  case viewh =>
    refine { h with view := ⟨hvw, ?_⟩ }
    simp only [writeCfg_viewh_viewh, BitVec.toNat_setWidth] at hl ⊢
    exact (Nat.mod_le _ _).trans hl.2
  case auxm => exact { h with }
  case fin => exact { h with resampler := ⟨fun _ => rfl, fun _ => hl⟩ }
  case fout =>
    refine { h with resampler := ⟨fun _ => rfl, fun hfin => ?_⟩ }
    have : s.fin.toNat ≠ 0 := fun h0 => hfin (BitVec.eq_of_toNat_eq h0)
    simp
    omega

/-- The raster of a PBEGIN that passed its checks fits the view, and the view fits the buffer (R145, R50). -/
theorem openRaster (h : s.Inv) {w ht : BitVec 12} (hw : w = s.vieww) (hh : ht.toNat ≤ s.viewh.toNat) :
    (s.openRaster w ht).Inv := by
  obtain ⟨hvw, hvh⟩ := h.view
  have hview : s.vieww.toNat * s.viewh.toNat ≤ 384 * 256 := Nat.mul_le_mul hvw hvh
  have hraster : w.toNat * ht.toNat ≤ s.vieww.toNat * s.viewh.toNat := hw ▸ Nat.mul_le_mul_left _ hh
  refine { h with raster := ⟨nofun, Nat.zero_le _, ?_, ?_, nofun⟩, buffer := ⟨Memory.cleared_wf, nofun⟩ }
  · simp only [openRaster_plim, openRaster_pbytes, BitVec.toNat_ofNat, Nat.mul_assoc]
    omega
  · simp only [openRaster_pbytes, BitVec.toNat_ofNat, Nat.mul_assoc, pixbufCapacity, Config.maxViewW, Config.maxViewH]
    omega

/-- Below PLIM the cursor moves up by one, and the two bytes stored lie below it (R147). -/
theorem storePixel (h : s.Inv) (hp : s.pst = .opened) (hlt : s.pcur.toNat < s.plim.toNat) (v : BitVec 16) :
    (s.storePixel v).Inv := by
  obtain ⟨-, -, hplim, hcap, -⟩ := h.raster
  obtain ⟨hwf, hcells⟩ := h.buffer
  have hcur : (s.storePixel v).pcur.toNat = s.pcur.toNat + 1 := by
    rw [storePixel_pcur, BitVec.toNat_add, BitVec.toNat_ofNat]
    omega
  refine { h with
    raster := ⟨fun hi => ?_, by rw [hcur]; exact hlt, hplim, hcap, fun hd => ?_⟩
    buffer := ⟨Memory.write16_wf hwf _ v, fun c hc => ?_⟩ }
  · rw [storePixel_pst, hp] at hi
    cases hi
  · rw [storePixel_pst, hp] at hd
    cases hd
  · rw [hcur]
    rcases Memory.mem_write16 hc with hc | hc | hc
    · have := hcells c hc
      omega
    all_goals omega

theorem closeRaster (h : s.Inv) (hall : s.pcur = s.plim) : s.closeRaster.Inv := by
  obtain ⟨-, hle, hplim, hcap, -⟩ := h.raster
  exact { h with raster := ⟨nofun, hle, hplim, hcap, fun _ => hall⟩ }

theorem resetBlock (h : s.Inv) : s.resetBlock.Inv := { State.reset_inv with replies := h.replies }

/-! ## Commands, words and steps -/

/-- A command that completes keeps the invariant: one update of `Completes` for each. -/
theorem completes (h : s.Inv) (hc : Completes Parameters.block s i u) : u.Inv := by
  cases hc with
  | unchanged => exact h
  | configured r val hw hl => exact h.writeCfg hw hl
  | reset => exact h.resetBlock
  | passStarted => exact (h.setCodec 0 le_rfl (by decide)).setPacker fun _ => rfl
  | coded est si _ h0 h48 => exact h.setCodec est h0 h48
  | packed p _ hp =>
    rcases hp with rfl | hp
    · exact h.setPacker h.packer
    · exact h.setPacker hp
  | codedAndPacked _ est si p h0 h48 hp => exact (h.setCodec est h0 h48).setPacker hp
  | accCleared => exact h.setAcc (fun _ => rfl) fun hf => Nat.pos_of_ne_zero fun h0 => hf (BitVec.eq_of_toNat_eq h0)
  | ticked _ hfin hle => exact h.tick hfin hle
  | rasterOpened w ht _ hw hh => exact h.openRaster hw hh
  | pixelStored r g b hp hlt => exact h.storePixel hp hlt _
  | rasterClosed _ hall => exact h.closeRaster hall

/-- Every command keeps the invariant, whether it is refused, fails or completes. -/
theorem exec (h : s.Inv) (he : exec i s = .next t) : t.Inv := by
  rcases exec_cases he with ⟨-, rfl⟩ | ⟨-, e, -, rfl⟩ | ⟨-, u, d, hok, rfl⟩
  · exact h.abort
  · exact h.fail e _
  · exact (h.completes (completes_of_ok hok)).answer (okResponse_proper d)

theorem accept (h : s.Inv) {w : CommandWord} (ha : accept w s = .next t) : t.Inv := by
  rcases accept_cases ha with ⟨-, rfl⟩ | ⟨-, -, rfl⟩ | ⟨-, i, -, he⟩
  · exact h.abort
  · exact h.fail .illegal w
  · exact h.exec he

end State.Inv

/-- Everything one step can do (R238, R239). -/
theorem step_cases (h : step s = .next t) :
    (s.port = [] ∧ t = s) ∨
    (∃ rest, s.port = .hardwareReset :: rest ∧ t = ({ s with port := rest } : State).resetBlock) ∨
    (∃ w rest, s.port = .command w :: rest ∧ accept w { s with port := rest } = .next t) := by
  cases hp : s.port with
  | nil =>
    rw [step_of_port_nil hp, Host.Outcome.next.injEq] at h
    exact .inl ⟨rfl, h.symm⟩
  | cons a rest =>
    rw [step_of_port_cons hp] at h
    cases a with
    | command w => exact .inr (.inr ⟨w, rest, rfl, h⟩)
    | hardwareReset =>
      simp only [perAction, Host.Outcome.next.injEq] at h
      exact .inr (.inl ⟨rest, rfl, h.symm⟩)

/-- Every step keeps the invariant. -/
theorem State.Inv.step (h : s.Inv) (hs : step s = .next t) : t.Inv := by
  rcases step_cases hs with ⟨-, rfl⟩ | ⟨rest, -, rfl⟩ | ⟨w, rest, -, ha⟩
  · exact h
  · exact (h.takeFromPort rest).resetBlock
  · exact (h.takeFromPort rest).accept ha

/-- Settles O10. -/
theorem resetSatisfiesInv : Obligations.ResetSatisfiesInv := State.reset_inv

/-- Settles O11, by cases on the host's action and, for a command that completes, on its update. -/
theorem everyStepKeepsInv : Obligations.EveryStepKeepsInv := fun _ _ h hs => h.step hs

end Sys2Proof.Machine

/-! SUPPORT. What a command leaves unchanged: the latch but for errors and SRST, PST but for PBEGIN, PEND and SRST, every
other register but for the writers its row of R20 names. -/

namespace Sys2Proof.Machine

variable {P : Parameters} {i : Instr} {s t u : State} {w : CommandWord}

@[simp] theorem lastStatus_append (rs : List Response) (r : Response) : lastStatus (rs ++ [r]) = some r.status := by
  simp [lastStatus]

@[simp] theorem okResponse_status (data : Word32) : (okResponse data).status = 0#4 := rfl

theorem errorResponse_status_ne_zero (e : ErrorCode) : (errorResponse e).status ≠ 0#4 := by
  cases e <;> decide

theorem abortedResponse_status_ne_zero : abortedResponse.status ≠ 0#4 := by decide

/-! ## The latch -/

/-- A command that completes leaves the latch as it is, unless it is SRST. -/
theorem Completes.latch (hc : Completes P s i u) :
    (u.fault = s.fault ∧ u.fop = s.fop ∧ u.farg = s.farg) ∨ (i = .srst ∧ u = s.resetBlock) := by
  cases hc with
  | reset => exact .inr ⟨rfl, rfl⟩
  | _ => exact .inl (by simp)

/-- An error leaves a set latch as it is (R196). -/
theorem State.fail_latch_of_set (e : ErrorCode) (w : CommandWord) (hf : s.fault ≠ none) :
    (s.fail e w).fault = s.fault ∧ (s.fail e w).fop = s.fop ∧ (s.fail e w).farg = s.farg := by
  obtain ⟨e', he⟩ := Option.ne_none_iff_exists'.1 hf
  simp [he]

/-- What a command does to a set latch. -/
theorem exec_latch_of_set (hf : s.fault ≠ none) (h : exec i s = .next t) :
    (t.fault = s.fault ∧ t.fop = s.fop ∧ t.farg = s.farg) ∨
    (i = .srst ∧ t.fault = none ∧ t.fop = 0#8 ∧ t.farg = 0#32) := by
  rcases exec_cases h with ⟨-, rfl⟩ | ⟨-, e, -, rfl⟩ | ⟨-, u, d, hok, rfl⟩
  · exact .inl ⟨rfl, rfl, rfl⟩
  · exact .inl (s.fail_latch_of_set e _ hf)
  · rcases (completes_of_ok hok).latch with hsame | ⟨hi, rfl⟩
    · exact .inl hsame
    · exact .inr ⟨hi, rfl, rfl, rfl⟩

/-- The operands of an opcode make a command of that opcode. -/
@[simp] theorem Opcode.opcode_operands (o : Opcode) (arg : Word32) : (o.operands arg).opcode = o := by
  cases o <;> rfl

/-- Only the word of R74 is SRST: every operand bit is reserved. -/
theorem eq_of_decode_srst (h : decode w = some .srst) : w = 0x0300000000#40 := by
  obtain ⟨o, hop, hres, hi, -⟩ := decode_eq_some h
  obtain rfl : o = .srst := by
    rw [← Opcode.opcode_operands o (CommandWord.arg w), ← hi]
    rfl
  have harg : CommandWord.arg w = 0#32 := BitVec.and_allOnes.symm.trans hres
  rw [← op_arg w, harg, ← Opcode.code_of_ofCode hop]
  rfl

/-- What accepting a word does to a set latch (R32, R197). -/
theorem accept_latch_of_set (hf : s.fault ≠ none) (h : accept w s = .next t) :
    (t.fault = s.fault ∧ t.fop = s.fop ∧ t.farg = s.farg) ∨
    (w = 0x0300000000#40 ∧ t.fault = none ∧ t.fop = 0#8 ∧ t.farg = 0#32) := by
  rcases accept_cases h with ⟨-, rfl⟩ | ⟨-, -, rfl⟩ | ⟨-, i, hd, he⟩
  · exact .inl ⟨rfl, rfl, rfl⟩
  · exact .inl (s.fail_latch_of_set .illegal w hf)
  · rcases exec_latch_of_set hf he with hsame | ⟨rfl, hclear⟩
    · exact .inl hsame
    · exact .inr ⟨eq_of_decode_srst hd, hclear⟩

/-- Settles O14, by cases on the host's action. -/
theorem firstErrorStays : Obligations.FirstErrorStays := by
  intro s t hf hs
  rcases step_cases hs with ⟨-, rfl⟩ | ⟨rest, hp, rfl⟩ | ⟨w, rest, hp, ha⟩
  · exact .inl ⟨rfl, rfl, rfl⟩
  · exact .inr ⟨rfl, rfl, rfl, .inl (by simp [hp])⟩
  · rcases accept_latch_of_set (s := { s with port := rest }) hf ha with hsame | ⟨rfl, hfault, hfop, hfarg⟩
    · exact .inl hsame
    · exact .inr ⟨hfault, hfop, hfarg, .inr (by simp [hp])⟩

/-! ## The raster state -/

/-- The ways a command that completes moves PST (R29). -/
theorem Completes.pst_cases (hc : Completes P s i u) :
    u.pst = s.pst ∨
    (i.opcode = .pbegin ∧ s.pst ≠ .opened ∧ u.pst = .opened) ∨
    (i = .pend ∧ s.pst = .opened ∧ u.pst = .done) ∨
    (i = .srst ∧ u.pst = .idle) := by
  cases hc with
  | reset => exact .inr (.inr (.inr ⟨rfl, rfl⟩))
  | rasterOpened w h hp => exact .inr (.inl ⟨rfl, hp, rfl⟩)
  | rasterClosed hp => exact .inr (.inr (.inl ⟨rfl, hp, rfl⟩))
  | _ => exact .inl (by simp)

/-- A command that is answered with status 0 has completed. -/
theorem exec_completed (h : exec i s = .next t) (hok : lastStatus t.replies = some 0#4) :
    ∃ u d, Completes Parameters.block s i u ∧ t = u.answer (okResponse d) := by
  rcases exec_cases h with ⟨-, rfl⟩ | ⟨-, e, -, rfl⟩ | ⟨-, u, d, hr, rfl⟩
  · simp [abortedResponse_status_ne_zero] at hok
  · simp [errorResponse_status_ne_zero] at hok
  · exact ⟨u, d, completes_of_ok hr, rfl⟩

theorem exec_pst_cases (h : exec i s = .next t) (hne : t.pst ≠ s.pst) :
    (i.opcode = .pbegin ∧ lastStatus t.replies = some 0#4 ∧ s.pst ≠ .opened ∧ t.pst = .opened) ∨
    (i = .pend ∧ lastStatus t.replies = some 0#4 ∧ s.pst = .opened ∧ t.pst = .done) ∨
    (i = .srst ∧ t.pst = .idle) := by
  rcases exec_cases h with ⟨-, rfl⟩ | ⟨-, e, -, rfl⟩ | ⟨-, u, d, hok, rfl⟩
  · simp at hne
  · simp at hne
  · have hlast : lastStatus (u.answer (okResponse d)).replies = some 0#4 := by simp
    rcases (completes_of_ok hok).pst_cases with hsame | ⟨hi, hs, hu⟩ | ⟨hi, hs, hu⟩ | ⟨hi, hu⟩
    · exact absurd hsame hne
    · exact .inl ⟨hi, hlast, hs, hu⟩
    · exact .inr (.inl ⟨hi, hlast, hs, hu⟩)
    · exact .inr (.inr ⟨hi, hu⟩)

/-- SRST resets every block, latched or not (R179, R197). -/
theorem exec_srst (s : State) : exec .srst s = .next (s.resetBlock.answer (okResponse 0#32)) := by
  rw [exec_eq, perform_of_accepted]
  · rfl
  · simp [State.refusesOp, Instr.opcode, Opcode.code]

/-- Settles O19: a change of PST is one of the three transitions, and each transition reaches its state. -/
theorem rasterStateTransitions : Obligations.RasterStateTransitions := by
  refine ⟨fun s t i h hne => exec_pst_cases h hne, ?_, ?_, ?_, ?_⟩
  case refine_1 =>
    intro s t w h he hok
    obtain ⟨u, d, hc, rfl⟩ := exec_completed he hok
    cases hc with
    | rasterOpened => rfl
    | _ => simp_all [Instr.opcode]
  case refine_2 =>
    intro s t he hok
    obtain ⟨u, d, hc, rfl⟩ := exec_completed he hok
    cases hc with
    | rasterClosed => rfl
    | _ => simp_all [Instr.opcode]
  case refine_3 =>
    intro s t he
    rw [exec_srst, Host.Outcome.next.injEq] at he
    exact he ▸ rfl
  case refine_4 =>
    intro s t he
    rw [perAction, Host.Outcome.next.injEq] at he
    exact he ▸ rfl

/-! ## Every register -/

/-- An error changes the latch only when it was clear, and is answered with its status (R196). -/
theorem State.fail_latch_changed (e : ErrorCode) (w : CommandWord)
    (h : (s.fail e w).fault ≠ s.fault ∨ (s.fail e w).fop ≠ s.fop ∨ (s.fail e w).farg ≠ s.farg) :
    s.fault = none ∧ lastStatus (s.fail e w).replies ≠ some 0#4 := by
  constructor
  · by_contra hf
    have := s.fail_latch_of_set e w hf
    tauto
  · simp [errorResponse_status_ne_zero]

/-- Settles O18: a refused command changes nothing, an error nothing but the latch, and a command that completes the
registers of its update. -/
theorem registersChangeOnlyByTheirWriters : Obligations.RegistersChangeOnlyByTheirWriters := by
  intro s t i h
  rcases exec_cases h with ⟨-, rfl⟩ | ⟨-, e, -, rfl⟩ | ⟨-, u, d, hok, rfl⟩
  · simp
  · refine ⟨?_, ?_, ?_, ?_, ?_, ?_, ?_, ?_, ?_, ?_, ?_, ?_, fun hl => .inr (s.fail_latch_changed e _ hl)⟩
    all_goals simp
  · cases completes_of_ok hok with
    | configured r val hw hl => cases r <;> simp [Reg.writable] at hw <;> simp [Reg.index]
    | coded est si hi =>
      simp only [List.mem_cons, List.not_mem_nil, or_false] at hi
      rcases hi with hi | hi | hi <;> simp [hi]
    | packed p hi =>
      simp only [List.mem_cons, List.not_mem_nil, or_false] at hi
      rcases hi with hi | hi <;> simp [hi]
    | _ => simp [Instr.opcode]

end Sys2Proof.Machine

/-! SUPPORT. The reset state: every register at its reset value, and the first PRD after it refused (R41). -/

namespace Sys2Proof.Machine

variable {s t : State}

theorem State.reset_atReset : State.reset.AtReset :=
  ⟨rfl, rfl, rfl, rfl, rfl, rfl, rfl, rfl, rfl, rfl, rfl, rfl, rfl, rfl, rfl, rfl, rfl, State.memRead_of_idle rfl⟩

/-- Reset gives the block the reset state, whatever stands at the port. -/
theorem State.resetBlock_atReset (s : State) : s.resetBlock.AtReset := State.reset_atReset

theorem State.AtReset.answer (h : s.AtReset) (r : Response) : (s.answer r).AtReset := h

theorem State.AtReset.fault_eq_none (h : s.AtReset) : s.fault = none := by
  unfold State.AtReset at h
  tauto

theorem State.AtReset.pst_eq_idle (h : s.AtReset) : s.pst = .idle := by
  unfold State.AtReset at h
  tauto

/-- A command that raises on an unlatched block records itself in the latch (R196). -/
theorem State.fail_of_clear (hf : s.fault = none) (e : ErrorCode) (w : CommandWord) :
    s.fail e w = s.raised e (e.code.setWidth 4) (CommandWord.op w) (CommandWord.arg w) := by
  rw [State.fail, s.latch_of_clear e w hf]
  rfl

/-- PRD before the first raster is E_SEQ (R149). -/
theorem exec_prd_of_idle (hf : s.fault = none) (hp : s.pst = .idle) (addr : BitVec 26) :
    exec (.prd addr) s = .next (s.raised .seq 4#4 0x34#8 (0#6 ++ addr)) := by
  have hrule : ruleOf Parameters.block (.prd addr) s = .error .seq := if_pos hp
  rw [exec_of_clear _ hf, hrule, State.finish, State.fail_of_clear hf, op_encode, arg_encode]
  rfl

/-- Settles O9: hardware reset and SRST both give the block the reset state. -/
theorem resetLeavesTheResetValues : Obligations.ResetLeavesTheResetValues := by
  intro s t h
  have hreset : t.AtReset := by
    rcases h with rfl | h | h
    · exact State.reset_atReset
    · rw [perAction, Host.Outcome.next.injEq] at h
      exact h ▸ s.resetBlock_atReset
    · rw [exec_srst, Host.Outcome.next.injEq] at h
      exact h ▸ s.resetBlock_atReset.answer _
  exact ⟨hreset, exec_prd_of_idle hreset.fault_eq_none hreset.pst_eq_idle⟩

end Sys2Proof.Machine

/-! SUPPORT. What no command can observe: the command port (R37) and the bytes of PIXBUF without a value (R41). One case
analysis over the rules, `ruleOf_withHidden`, runs a rule beside itself with another port and another buffer; both
statements are uses of it. -/

namespace Sys2Proof.Machine

variable {P : Parameters} {i : Instr} {s s' u : State} {R R' : State → State → Prop}

/-! ## Two runs of a rule -/

/-- Two ends of a rule the host cannot tell apart: the same error, or the same data with related states. -/
def RuleResult.Agrees (R : State → State → Prop) (a b : RuleResult) : Prop :=
  (∃ e, a = .error e ∧ b = .error e) ∨ ∃ u u' d, a = .ok (u, d) ∧ b = .ok (u', d) ∧ R u u'

theorem RuleResult.Agrees.error (e : ErrorCode) : RuleResult.Agrees R (.error e) (.error e) :=
  .inl ⟨e, rfl, rfl⟩

theorem RuleResult.Agrees.ok {u u' : State} {d d' : Word32} (hd : d = d') (h : R u u') :
    RuleResult.Agrees R (.ok (u, d)) (.ok (u', d')) :=
  .inr ⟨u, u', d, rfl, hd ▸ rfl, h⟩

/-- A check that both runs decide alike. -/
theorem RuleResult.Agrees.ite {c : Prop} [Decidable c] {a a' b b' : RuleResult} (ha : c → RuleResult.Agrees R a a')
    (hb : ¬ c → RuleResult.Agrees R b b') :
    RuleResult.Agrees R (if c then a else b) (if c then a' else b') := by
  split
  · exact ha ‹_›
  · exact hb ‹_›

/-- Agreement passes to a weaker relation on the states of a completed rule. -/
theorem RuleResult.Agrees.mono {a b : RuleResult} (h : RuleResult.Agrees R a b)
    (hR : ∀ u u' d, a = .ok (u, d) → R u u' → R' u u') : RuleResult.Agrees R' a b := by
  rcases h with he | ⟨u, u', d, ha, hb, hu⟩
  · exact .inl he
  · exact .inr ⟨u, u', d, ha, hb, hR u u' d ha hu⟩

/-- Two blocks whose rules agree answer a command alike, when the latch agrees and the relation survives an answer and an
error. -/
theorem exec_agrees (hs : R s s') (hf : s.fault = s'.fault)
    (hanswer : ∀ {u u' : State} (r : Response), R u u' → R (u.answer r) (u'.answer r))
    (hlatch : ∀ (e : ErrorCode) (w : CommandWord), R (s.latch e w) (s'.latch e w))
    (hrule : RuleResult.Agrees R (ruleOf Parameters.block i s) (ruleOf Parameters.block i s')) :
    ∃ t t' r, exec i s = .next t ∧ exec i s' = .next t' ∧ R t t' ∧
      t.replies = s.replies ++ [r] ∧ t'.replies = s'.replies ++ [r] := by
  have href : s'.refusesOp i.opcode.code = s.refusesOp i.opcode.code := by rw [State.refusesOp, ← hf, State.refusesOp]
  rw [exec_eq, exec_eq]
  cases hr : s.refusesOp i.opcode.code with
  | true =>
    rw [perform_of_refused _ _ hr, perform_of_refused _ _ (href.trans hr)]
    exact ⟨_, _, abortedResponse, rfl, rfl, hanswer _ hs, rfl, rfl⟩
  | false =>
    rw [perform_of_accepted _ _ hr, perform_of_accepted _ _ (href.trans hr)]
    rcases hrule with ⟨e, ha, hb⟩ | ⟨u, u', d, ha, hb, hu⟩
    · rw [ha, hb]
      exact ⟨_, _, errorResponse e, rfl, rfl, hanswer _ (hlatch e _), s.fail_replies e _, s'.fail_replies e _⟩
    · rw [ha, hb]
      refine ⟨_, _, okResponse d, rfl, rfl, hanswer _ hu, ?_, ?_⟩
      · rw [State.finish, State.answer_replies, (ruleOf_ok_port ha).2]
      · rw [State.finish, State.answer_replies, (ruleOf_ok_port hb).2]

/-! ## A rule beside itself with another port and another buffer -/

/-- The same registers with another port, other replies and another buffer. -/
def State.withHidden (s : State) (p : List HostAction) (rs : List Response) (m : Memory) : State :=
  { s with port := p, replies := rs, pixbuf := m }

/-- The buffer a completed command leaves when it finds `m` (R145, R147, R179). -/
def bufferAfter (i : Instr) (s : State) (m : Memory) : Memory :=
  match i with
  | .srst | .pbegin _ _ => Memory.cleared
  | .ppix r g b => m.write16 (2 * s.pcur.toNat) (packColor r g b s.auxm)
  | .nop | .cwr _ _ | .crd _ | .arst | .anrw _ | .adec _ | .aenc _ | .apck _ | .aflush | .aencs _ | .adecb _ => m
  | .rrst | .dmix _ _ | .rsmp _ | .pconv _ _ _ | .pend | .prd _ | .fvs _ _ | .fsz _ | .frc _ | .fdur _ _ => m

/-- The end `(u', _)` of a rule beside the end `(u, _)`: the buffers are what the command makes of those it found, and all
else but the port is the same. -/
def HiddenApart (i : Instr) (s : State) (p : List HostAction) (rs : List Response) (m : Memory) (u u' : State) : Prop :=
  u.pixbuf = bufferAfter i s s.pixbuf ∧ u' = u.withHidden p rs (bufferAfter i s m)

theorem readReg_withHidden (r : Reg) (s : State) (p : List HostAction) (rs : List Response) (m : Memory) :
    readReg r (s.withHidden p rs m) = readReg r s := by
  cases r <;> rfl

theorem writeCfg_withHidden (r : Reg) (v : BitVec 24) (s : State) (p : List HostAction) (rs : List Response) (m : Memory) :
    (s.withHidden p rs m).writeCfg r v = (s.writeCfg r v).withHidden p rs m := by
  cases r <;> rfl

@[simp] theorem State.withHidden_si (s : State) (p : List HostAction) (rs : List Response) (m : Memory) :
    (s.withHidden p rs m).si = s.si := rfl

@[simp] theorem State.withHidden_est (s : State) (p : List HostAction) (rs : List Response) (m : Memory) :
    (s.withHidden p rs m).est = s.est := rfl

theorem decodeCode_withHidden (T : CodecTables) (code : Code) (s : State) (p : List HostAction) (rs : List Response)
    (m : Memory) : (s.withHidden p rs m).decodeCode T code = (s.decodeCode T code).withHidden p rs m := rfl

@[simp] theorem State.decodeCode_pixbuf (T : CodecTables) (s : State) (code : Code) :
    (s.decodeCode T code).pixbuf = s.pixbuf := rfl

/-- No rule reads the port, and none but PRD's the buffer. -/
theorem ruleOf_withHidden (P : Parameters) (i : Instr) (s : State) (p : List HostAction) (rs : List Response) (m : Memory)
    (hread : ∀ a, s.memRead a = (s.withHidden p rs m).memRead a) :
    RuleResult.Agrees (HiddenApart i s p rs m) (ruleOf P i s) (ruleOf P i (s.withHidden p rs m)) := by
  cases i
  case cwr idx val =>
    simp only [ruleOf, ruleCwr]
    cases Reg.ofIndex idx with
    | none => exact .error _
    | some r =>
      exact .ite (fun _ => .ite (fun _ => .ok rfl ⟨s.writeCfg_pixbuf r val, writeCfg_withHidden r val s p rs m⟩)
        fun _ => .error _) fun _ => .error _
  case crd idx =>
    simp only [ruleOf, ruleCrd]
    cases Reg.ofIndex idx with
    | none => exact .error _
    | some r => exact .ok (readReg_withHidden r s p rs m).symm ⟨rfl, rfl⟩
  case prd addr =>
    refine .ite (fun _ => .error _) fun hp => .ite (fun _ => .error _) fun ha => .ok ?_ ⟨rfl, rfl⟩
    have hsame := hread addr.toNat
    rw [State.memRead_of_active hp (not_le.1 ha),
      State.memRead_of_active (s := s.withHidden p rs m) hp (not_le.1 ha), Option.some.injEq] at hsame
    rw [hsame]
  case adecb byte =>
    simp only [ruleOf, ruleAdecb, decodeCode_withHidden, State.withHidden_si, State.withHidden_est]
    exact .ok rfl ⟨by simp [bufferAfter], rfl⟩
  case rsmp | fvs | fsz | frc | fdur => exact .ite (fun _ => .error _) fun _ => .ok rfl ⟨rfl, rfl⟩
  case pbegin =>
    exact .ite (fun _ => .error _) fun _ => .ite (fun _ => .error _) fun _ => .ite (fun _ => .error _) fun _ =>
      .ite (fun _ => .error _) fun _ => .ok rfl ⟨rfl, rfl⟩
  case ppix | pend => exact .ite (fun _ => .error _) fun _ => .ite (fun _ => .error _) fun _ => .ok rfl ⟨rfl, rfl⟩
  all_goals exact .ok rfl ⟨rfl, rfl⟩

/-! ## The port -/

theorem State.SameBlock.exists_eq (h : s.SameBlock s') : ∃ p rs, s' = s.withHidden p rs s.pixbuf := by
  refine ⟨s'.port, s'.replies, ?_⟩
  obtain ⟨⟩ := s
  obtain ⟨⟩ := s'
  simpa [State.SameBlock, State.withHidden, eq_comm] using h

theorem State.SameBlock.answer (h : s.SameBlock s') (r : Response) : (s.answer r).SameBlock (s'.answer r) := h

theorem State.SameBlock.latch (h : s.SameBlock s') (e : ErrorCode) (w : CommandWord) :
    (s.latch e w).SameBlock (s'.latch e w) := by
  obtain ⟨p, rs, rfl⟩ := h.exists_eq
  cases hf : s.fault with
  | none =>
    rw [s.latch_of_clear e w hf, State.latch_of_clear (s.withHidden p rs s.pixbuf) e w hf]
    rfl
  | some e' =>
    rw [s.latch_of_set e w hf, State.latch_of_set (s.withHidden p rs s.pixbuf) e w hf]
    rfl

/-- Settles O21. -/
theorem portIsNoStateOfTheBlock : Obligations.PortIsNoStateOfTheBlock := by
  intro s s' i h
  obtain ⟨p, rs, rfl⟩ := h.exists_eq
  refine exec_agrees h rfl (fun r hu => hu.answer r) h.latch ?_
  refine (ruleOf_withHidden _ i s p rs s.pixbuf fun _ => rfl).mono fun u u' d _ ⟨hbuf, hu⟩ => ?_
  rw [hu, ← hbuf]
  rfl

/-! ## Bytes without a value -/

/-- Another buffer reads the same at an address exactly when it holds the same byte there or the byte has no value. -/
theorem State.memRead_eq_withHidden_iff (s : State) (p : List HostAction) (rs : List Response) (m : Memory) (a : Nat) :
    s.memRead a = (s.withHidden p rs m).memRead a ↔
      (s.pst ≠ .idle → a < s.pbytes.toNat → s.pixbuf.read a = m.read a) := by
  change (if s.pst = .idle ∨ s.pbytes.toNat ≤ a then none else some (s.pixbuf.read a)) =
    (if s.pst = .idle ∨ s.pbytes.toNat ≤ a then none else some (m.read a)) ↔ _
  split
  next h => exact iff_of_true rfl fun hp ha => absurd h (not_or.2 ⟨hp, not_le.2 ha⟩)
  next h =>
    obtain ⟨hp, ha⟩ := not_or.1 h
    rw [Option.some.injEq]
    exact ⟨fun heq _ _ => heq, fun heq => heq hp (not_le.1 ha)⟩

theorem bufferAfter_wf (i : Instr) (s : State) {m : Memory} (h : m.wf) : (bufferAfter i s m).wf := by
  cases i
  case srst | pbegin => exact Memory.cleared_wf
  case ppix => exact Memory.write16_wf h _ _
  all_goals exact h

/-- A command makes equal bytes of equal bytes. -/
theorem bufferAfter_read_congr (i : Instr) (s : State) {m m' : Memory} (hm : m.wf) (hm' : m'.wf) {a : Nat}
    (h : m.read a = m'.read a) : (bufferAfter i s m).read a = (bufferAfter i s m').read a := by
  cases i
  case srst | pbegin => rfl
  case ppix => simp only [bufferAfter, Memory.read_write16 hm, Memory.read_write16 hm', h]
  all_goals exact h

/-- A byte that has a value after a command had one before it, unless the command clears the buffer. -/
theorem Completes.active (hc : Completes P s i u) {a : Nat} (hp : u.pst ≠ .idle) (ha : a < u.pbytes.toNat) :
    (s.pst ≠ .idle ∧ a < s.pbytes.toNat) ∨ ∀ m m', bufferAfter i s m = bufferAfter i s m' := by
  cases hc with
  | reset => exact .inr fun _ _ => rfl
  | rasterOpened => exact .inr fun _ _ => rfl
  | rasterClosed hs => exact .inl ⟨by simp [hs], ha⟩
  | _ => exact .inl ⟨by simpa using hp, by simpa using ha⟩

/-- Two states the host cannot tell apart by their registers, their port or a byte of PIXBUF that has a value. -/
def State.SameValues (s s' : State) : Prop :=
  s.pixbuf.wf ∧ s'.pixbuf.wf ∧ { s with pixbuf := Memory.cleared } = { s' with pixbuf := Memory.cleared } ∧
    ∀ a, s.memRead a = s'.memRead a

theorem State.SameValues.eq_withHidden (h : s.SameValues s') : s' = s.withHidden s.port s.replies s'.pixbuf := by
  obtain ⟨-, -, heq, -⟩ := h
  obtain ⟨⟩ := s
  obtain ⟨⟩ := s'
  simpa [State.withHidden, eq_comm] using heq

theorem State.SameValues.answer (h : s.SameValues s') (r : Response) : (s.answer r).SameValues (s'.answer r) := by
  obtain ⟨hwf, hwf', -, hread⟩ := id h
  rw [h.eq_withHidden] at hwf' hread ⊢
  exact ⟨hwf, hwf', rfl, hread⟩

theorem State.SameValues.latch (h : s.SameValues s') (e : ErrorCode) (w : CommandWord) :
    (s.latch e w).SameValues (s'.latch e w) := by
  cases hf : s.fault with
  | none =>
    obtain ⟨hwf, hwf', -, hread⟩ := id h
    rw [h.eq_withHidden] at hwf' hread ⊢
    rw [s.latch_of_clear e w hf, State.latch_of_clear (s.withHidden s.port s.replies s'.pixbuf) e w hf]
    exact ⟨hwf, hwf', rfl, hread⟩
  | some e' =>
    have hf' : s'.fault = some e' := by rw [h.eq_withHidden]; exact hf
    rwa [s.latch_of_set e w hf, s'.latch_of_set e w hf']

/-- The two ends of a command on states of the same values have the same values. -/
theorem sameValues_of_hiddenApart {m : Memory} {d : Word32} (hwf : s.pixbuf.wf) (hm : m.wf)
    (hread : ∀ a, s.memRead a = (s.withHidden s.port s.replies m).memRead a) (hok : ruleOf P i s = .ok (u, d))
    {u' : State} (h : HiddenApart i s s.port s.replies m u u') : u.SameValues u' := by
  obtain ⟨hbuf, rfl⟩ := h
  obtain ⟨hport, hreplies⟩ := ruleOf_ok_port hok
  refine ⟨hbuf ▸ bufferAfter_wf i s hwf, bufferAfter_wf i s hm, ?_, fun a => ?_⟩
  · rw [← hport, ← hreplies]
    rfl
  · rw [State.memRead_eq_withHidden_iff, hbuf]
    intro hp ha
    rcases (completes_of_ok hok).active hp ha with ⟨hps, has⟩ | hclear
    · exact bufferAfter_read_congr i s hwf hm ((s.memRead_eq_withHidden_iff _ _ m a).1 (hread a) hps has)
    · rw [hclear]

/-- Settles O22. -/
theorem unspecifiedBytesAreUnobservable : Obligations.UnspecifiedBytesAreUnobservable := by
  intro s s' i hwf hwf' heq hread
  have hsame : s.SameValues s' := ⟨hwf, hwf', heq, hread⟩
  have hs' := hsame.eq_withHidden
  have hfault : s.fault = s'.fault := by rw [hs']; rfl
  have hrule : RuleResult.Agrees State.SameValues (ruleOf Parameters.block i s) (ruleOf Parameters.block i s') := by
    rw [hs'] at hread ⊢
    exact (ruleOf_withHidden _ i s _ _ s'.pixbuf hread).mono fun u u' d hok hu =>
      sameValues_of_hiddenApart hwf hwf' hread hok hu
  obtain ⟨t, t', -, ht, ht', ⟨htwf, htwf', hteq, htread⟩, -⟩ :=
    exec_agrees hsame hfault (fun r hu => hu.answer r) hsame.latch hrule
  exact ⟨t, t', ht, ht', htwf, htwf', hteq, htread⟩

end Sys2Proof.Machine

/-! SUPPORT. The commands that only compute or only read: each ends in an answer given by the block as it was, or in an
error, which writes the latch alone. -/

namespace Sys2Proof.Machine

variable {i : Instr} {s t : State}

/-- An answer is given at the port: the block it comes from stays as it is (R37). -/
theorem State.answer_sameBlock (s : State) (r : Response) : s.SameBlock (s.answer r) := rfl

theorem State.SameBlock.sameButLatch (h : s.SameBlock t) : s.SameButLatch t := by
  obtain ⟨p, rs, rfl⟩ := h.exists_eq
  rfl

/-- An error writes nothing but the latch (R196). -/
theorem State.fail_sameButLatch (s : State) (e : ErrorCode) (w : CommandWord) : s.SameButLatch (s.fail e w) := by
  cases hf : s.fault with
  | none =>
    rw [State.fail, s.latch_of_clear e w hf]
    rfl
  | some e' =>
    rw [State.fail, s.latch_of_set e w hf]
    rfl

/-- A pure command gives an answer and leaves the block as it is, whether it completes or is refused by the latch, or it
raises an error. -/
theorem exec_pure_cases (hi : i.opcode ∈ pureOpcodes) (h : exec i s = .next t) :
    (∃ r, t = s.answer r) ∨ ∃ e, t = s.fail e (encode i) := by
  rcases exec_cases h with ⟨-, rfl⟩ | ⟨-, e, -, rfl⟩ | ⟨-, u, d, hok, rfl⟩
  · exact .inl ⟨abortedResponse, rfl⟩
  · exact .inr ⟨e, rfl⟩
  · exact .inl ⟨okResponse d, by rw [ruleOf_ok_of_pure hi hok]⟩

/-- Settles O20, by cases on the end of the command: an answer changes the port alone, and an error, which changes the latch
too, is no success. -/
theorem readsAndPureCommandsChangeNothing : Obligations.ReadsAndPureCommandsChangeNothing := by
  intro s t i h hi
  rcases exec_pure_cases hi h with ⟨r, rfl⟩ | ⟨e, rfl⟩
  · have hsame := s.answer_sameBlock r
    exact ⟨hsame.sameButLatch, rfl, fun _ => rfl, fun _ => hsame⟩
  · refine ⟨s.fail_sameButLatch e _, by simp, State.memRead_congr (by simp) (by simp) (by simp), fun hok => ?_⟩
    simp [errorResponse_status_ne_zero] at hok

end Sys2Proof.Machine

/-! SUPPORT. Decoding and encoding are inverse to each other: the fields of an operand put together give the operand back,
the operand of a command taken apart gives its fields back, and both sides accept the same register indices. -/

namespace Sys2Proof

open BitVec

/-! ## From an operand to its fields and back (R74, R75) -/

section
variable {arg mask : Word32} {lo m n : Nat}

theorem argField_all : argField arg 0 32 = arg := extractLsb'_eq_self

/-- Two neighbouring fields make one. -/
theorem append_eq_argField {x : BitVec m} {y : BitVec n} (hx : x = argField arg (lo + n) m) (hy : y = argField arg lo n) :
    x ++ y = argField arg lo (m + n) := by
  rw [hx, hy]
  exact extractLsb'_append_extractLsb'_eq_extractLsb' rfl

/-- A field of reserved bits is 0 in an operand that sets none of them. -/
theorem zero_eq_argField (h : arg &&& mask = 0#32) (hm : argField mask lo n = allOnes n) : 0#n = argField arg lo n := by
  symm
  calc argField arg lo n
      = argField arg lo n &&& argField mask lo n := by rw [hm, and_allOnes]
    _ = argField (arg &&& mask) lo n := extractLsb'_and.symm
    _ = 0#n := by rw [h]; exact extractLsb'_zero

/-- The command of an operand without reserved bits has that operand: between them its fields and the reserved bits are all
32 bits. -/
theorem arg_operands {o : Opcode} (h : arg &&& o.reserved = 0#32) : (o.operands arg).arg = arg := by
  have zero (lo n : Nat) : argField o.reserved lo n = allOnes n → 0#n = argField arg lo n := zero_eq_argField h
  refine Eq.trans ?_ argField_all
  cases o with
  | nop | srst | arst | aflush | rrst | pend => exact zero 0 32 (by decide)
  | anrw | adec | aenc | apck | aencs | adecb | rsmp | prd | fsz | frc =>
    exact append_eq_argField (zero _ _ (by decide)) rfl
  | crd => exact append_eq_argField rfl (zero 0 24 (by decide))
  | cwr | dmix => exact append_eq_argField rfl rfl
  | fvs | fdur => exact append_eq_argField (append_eq_argField (zero _ _ (by decide)) rfl) rfl
  | pconv | ppix =>
    exact append_eq_argField (append_eq_argField (append_eq_argField (zero 24 8 (by decide)) rfl) rfl) rfl
  | pbegin =>
    exact append_eq_argField
      (append_eq_argField (append_eq_argField (zero 28 4 (by decide)) rfl) (zero 12 4 (by decide))) rfl

end

section
variable {k l m n : Nat} {a : BitVec k} {b : BitVec l} {c : BitVec m} {d : BitVec n}

theorem extractLsb'_append_second_last : (a ++ b ++ c).extractLsb' m l = b := by
  rw [extractLsb'_append_eq_of_le le_rfl, Nat.sub_self, extractLsb'_append_eq_right]

theorem extractLsb'_append_third_last : (a ++ b ++ c ++ d).extractLsb' (m + n) l = b := by
  rw [extractLsb'_append_eq_of_le (Nat.le_add_left n m), Nat.add_sub_cancel, extractLsb'_append_second_last]

end

/-- The fields of a command's operand are the command's own: each is read where it was placed. -/
theorem operands_arg (i : Instr) : i.opcode.operands i.arg = i := by
  cases i with
  | nop | srst | arst | aflush | rrst | pend => rfl
  | anrw | adec | aenc | apck | aencs | adecb | rsmp | prd | fsz | frc => exact congrArg _ extractLsb'_append_eq_right
  | crd => exact congrArg _ extractLsb'_append_eq_left
  | cwr | dmix => exact congrArg₂ _ extractLsb'_append_eq_left extractLsb'_append_eq_right
  | fvs | fdur => exact congrArg₂ _ extractLsb'_append_second_last extractLsb'_append_eq_right
  | pbegin => exact congrArg₂ _ extractLsb'_append_third_last extractLsb'_append_eq_right
  | pconv | ppix =>
    exact congr (congrArg₂ _ extractLsb'_append_third_last extractLsb'_append_second_last) extractLsb'_append_eq_right

/-! ## The register index (R40, R90) -/

theorem Reg.ofIndex_eq_some_iff {idx : BitVec 8} {r : Reg} : Reg.ofIndex idx = some r ↔ r.index = idx :=
  ⟨Reg.index_of_ofIndex, fun h => h ▸ Reg.ofIndex_index r⟩

/-- The indices CRD takes are those of the map. -/
theorem crdIndexOk_iff (idx : BitVec 8) : Instr.crdIndexOk idx ↔ (Reg.ofIndex idx).isSome = true := by
  simp only [Option.isSome_iff_exists, Reg.ofIndex_eq_some_iff]
  constructor
  · intro h
    have hmap : idx.toNat ∈ Reg.all.map fun r => r.index.toNat := h
    obtain ⟨r, -, hr⟩ := List.mem_map.1 hmap
    exact ⟨r, eq_of_toNat_eq hr⟩
  · rintro ⟨r, rfl⟩
    cases r <;> decide

/-- The indices CWR takes, 0 to 4, are those of the writable registers. -/
theorem cwrIndexOk_iff (idx : BitVec 8) : Instr.cwrIndexOk idx ↔ (Reg.ofIndex idx).any Reg.writable = true := by
  simp only [Option.any_eq_true, Reg.ofIndex_eq_some_iff]
  constructor
  · intro h
    have hmap : idx.toNat ∈ (Reg.all.filter Reg.writable).map fun r => r.index.toNat :=
      List.mem_range.2 (Nat.lt_succ_of_le h)
    obtain ⟨r, hr, hidx⟩ := List.mem_map.1 hmap
    exact ⟨r, eq_of_toNat_eq hidx, (List.mem_filter.1 hr).2⟩
  · rintro ⟨r, rfl, hw⟩
    revert hw
    cases r <;> decide

/-- The decoder accepts the index of exactly the well-formed commands. -/
theorem indexAccepted_eq_wellFormed (i : Instr) : indexAccepted i = i.wellFormed := by
  cases i with
  | cwr idx val => exact Bool.eq_iff_iff.2 ((cwrIndexOk_iff idx).symm.trans decide_eq_true_iff.symm)
  | crd idx => exact Bool.eq_iff_iff.2 ((crdIndexOk_iff idx).symm.trans decide_eq_true_iff.symm)
  | _ => rfl

/-! ## The round trips -/

theorem decode_encode {i : Instr} (h : i.wellFormed = true) : decode (encode i) = some i := by
  simp [decode, decodeOrReason, Opcode.ofCode_code, arg_reserved, operands_arg, indexAccepted_eq_wellFormed, h,
    Except.toOption]

/-- What a word decodes to has the word's opcode and, no reserved bit being set, the word's operand. -/
theorem encode_of_decode {w : CommandWord} {i : Instr} (h : decode w = some i) : encode i = w := by
  obtain ⟨o, hop, hres, rfl, -⟩ := decode_eq_some h
  rw [encode, Machine.Opcode.opcode_operands, Opcode.code_of_ofCode hop, arg_operands hres, op_arg]

theorem wellFormed_of_decode {w : CommandWord} {i : Instr} (h : decode w = some i) : i.wellFormed = true := by
  obtain ⟨o, -, -, -, hidx⟩ := decode_eq_some h
  rwa [← indexAccepted_eq_wellFormed]

/-- Settles O1: each of the decoder's three tests passes and each field is read where the encoder placed it. -/
theorem decodeEncodeRoundTrip : Obligations.DecodeEncodeRoundTrip := fun _ h => decode_encode h

/-- Settles O2. -/
theorem encodeDecodeRoundTrip : Obligations.EncodeDecodeRoundTrip :=
  fun _ _ h => ⟨wellFormed_of_decode h, encode_of_decode h⟩

/-- A word written out decodes to the command that encodes to it. -/
theorem decode_of_encode_eq {w : CommandWord} {i : Instr} (hi : i.wellFormed = true) (hw : encode i = w) :
    decode w = some i := hw ▸ decode_encode hi

/-- Settles O3, by encoding each of the eight commands. -/
theorem knownWordsDecode : Obligations.KnownWordsDecode := by
  refine ⟨?_, ?_, ?_, ?_, ?_, ?_, ?_, ?_⟩ <;> exact decode_of_encode_eq (by decide) (by decide)

end Sys2Proof

/-! SUPPORT. Every command answers: one response at the end of the port's list, whichever way the command ends. -/

namespace Sys2Proof.Machine

/-- Settles O8, by cases on the end of the command: refused by the latch, an error, or completed. -/
theorem everyCommandAnswersOnce : Obligations.EveryCommandAnswersOnce := by
  intro i s
  obtain ⟨t, ht⟩ := perform_answers i (ruleOf Parameters.block i) s
  rw [← exec_eq] at ht
  rcases exec_cases ht with ⟨-, rfl⟩ | ⟨-, e, -, rfl⟩ | ⟨-, u, d, hok, rfl⟩
  · exact ⟨_, abortedResponse, ht, rfl, rfl, abortedResponse_proper⟩
  · exact ⟨_, errorResponse e, ht, by simp, by simp, errorResponse_proper e⟩
  · obtain ⟨hport, hreplies⟩ := ruleOf_ok_port hok
    exact ⟨_, okResponse d, ht, hport, congrArg (· ++ [okResponse d]) hreplies, okResponse_proper d⟩

end Sys2Proof.Machine

/-! SUPPORT. Decoding the word of a given opcode: for a command without a register index only the reserved operand bits
decide (R75, R90). -/

namespace Sys2Proof

open BitVec

/-- The word `op ‖ arg` of an opcode of R73 decodes to that opcode's command, when the operand passes its two checks. -/
theorem decode_code_append (o : Opcode) (arg : Word32) :
    decode (o.code ++ arg) =
      if arg &&& o.reserved = 0#32 ∧ indexAccepted (o.operands arg) = true then some (o.operands arg) else none := by
  simp only [decode, decodeOrReason, op_append, arg_append, Opcode.ofCode_code]
  by_cases hr : arg &&& o.reserved = 0#32
  · by_cases hi : indexAccepted (o.operands arg) = true <;> simp [hr, hi, Except.toOption]
  · simp [hr, Except.toOption]

/-- Where the reserved bits are the upper `n` bits, they are all 0 exactly when that field is. -/
theorem and_eq_zero_iff_argField {arg mask : Word32} {lo n : Nat} (hn : lo + n = 32)
    (hhi : argField mask lo n = allOnes n) (hlo : argField mask 0 lo = 0#lo) :
    arg &&& mask = 0#32 ↔ argField arg lo n = 0#n := by
  refine ⟨fun h => (zero_eq_argField h hhi).symm, fun h => eq_of_getLsbD_eq fun i hi => ?_⟩
  rw [getLsbD_and, getLsbD_zero]
  by_cases hlt : i < lo
  · have hmask : mask.getLsbD i = false := by
      simpa [argField, getLsbD_extractLsb', hlt] using congrArg (·.getLsbD i) hlo
    rw [hmask, Bool.and_false]
  · have harg : arg.getLsbD i = false := by
      simpa [argField, getLsbD_extractLsb', show i - lo < n by omega, show lo + (i - lo) = i by omega] using
        congrArg (·.getLsbD (i - lo)) h
    rw [harg, Bool.false_and]

/-- Decoding the word of an opcode whose reserved operand bits are the upper `n`. -/
theorem decode_of_reserved_high {o : Opcode} {lo n : Nat} (hn : lo + n = 32)
    (hhi : argField o.reserved lo n = allOnes n) (hlo : argField o.reserved 0 lo = 0#lo)
    (hidx : ∀ arg, indexAccepted (o.operands arg) = true) (arg : Word32) :
    decode (o.code ++ arg) = if argField arg lo n = 0#n then some (o.operands arg) else none := by
  rw [decode_code_append]
  exact if_congr ((and_iff_left (hidx arg)).trans (and_eq_zero_iff_argField hn hhi hlo)) rfl rfl

/-- Decoding the word of an opcode without operand fields: every bit is reserved. -/
theorem decode_of_reserved_all {o : Opcode} (hall : o.reserved = allOnes 32)
    (hidx : ∀ arg, indexAccepted (o.operands arg) = true) (arg : Word32) :
    decode (o.code ++ arg) = if arg = 0#32 then some (o.operands arg) else none := by
  rw [decode_code_append, hall, and_allOnes]
  exact if_congr (and_iff_left (hidx arg)) rfl rfl

end Sys2Proof

/-! SUPPORT. The codec's functions in integers (R100 to R103): bits as parities, shifts as quotients, the clamp as maximum
and minimum, and the ranges that let a register hold each result exactly. -/

namespace Sys2Proof.Machine

variable {T : CodecTables} {code : Code} {ss : Nat}

/-! ## adpcm_delta (R100) -/

theorem getLsbD_eq_true_iff {n : Nat} (v : BitVec n) (k : Nat) : v.getLsbD k = true ↔ v.toNat / 2 ^ k % 2 = 1 := by
  simp [BitVec.getLsbD, Nat.testBit_eq_decide_div_mod_eq]

/-- The sign bit of a code is set from 8 on. -/
theorem code_sign_iff (code : Code) : code.getLsbD 3 = true ↔ 8 ≤ code.toNat := by
  have := code.isLt
  rw [getLsbD_eq_true_iff]
  omega

theorem deltaMagnitude_eq (code : Code) (ss : Nat) :
    deltaMagnitude code ss = ss / 8 + (if code.toNat % 2 = 1 then ss / 4 else 0)
      + (if code.toNat / 2 % 2 = 1 then ss / 2 else 0) + (if code.toNat / 4 % 2 = 1 then ss else 0) := by
  simp only [deltaMagnitude, getLsbD_eq_true_iff, Nat.shiftRight_eq_div_pow, Nat.pow_zero, Nat.div_one, Nat.reducePow]

/-- The lowest plane alone keeps the magnitude positive, from a step size of 8 on. -/
theorem deltaMagnitude_pos (code : Code) (h : 8 ≤ ss) : 0 < deltaMagnitude code ss := by
  have : 0 < ss / 8 := Nat.div_pos h (by decide)
  rw [deltaMagnitude_eq]
  omega

/-- Settles O27. -/
theorem adpcmDeltaFormula : Obligations.AdpcmDeltaFormula := by
  refine ⟨fun code ss => ?_, fun code ss h => ?_, by decide, by decide⟩
  · simp only [adpcmDelta, code_sign_iff, deltaMagnitude_eq]
  · have := deltaMagnitude_pos code h
    unfold adpcmDelta
    split <;> omega

/-! ## adpcm_decode (R101) -/

theorem clamp_eq_max_min (x : Int) {lo hi : Int} (h : lo ≤ hi) : clamp x lo hi = max lo (min hi x) := by
  unfold clamp
  split
  · omega
  · split <;> omega

theorem stepSize_of_getElem? {si : Nat} (h : T.stepSize[si]? = some ss) : stepSize T si = ss := by
  simp [stepSize, h]

theorem stepAdjust_of_getElem? {adj : Int} (h : T.stepAdjust[code.toNat]? = some adj) : stepAdjust T code = adj := by
  simp [stepAdjust, h]

/-- The estimate a decoding step leaves fits 12 bits (R22, R101). -/
theorem adpcmDecode_estimate_bounds (T : CodecTables) (code : Code) (si : Nat) (est : Int) :
    -2048 ≤ (adpcmDecode T code si est).1 ∧ (adpcmDecode T code si est).1 ≤ 2047 :=
  clamp_bounds _ (by decide)

/-- Settles O28: every index of the table and every code has its entry, and both results are clamped. -/
theorem adpcmDecodeSaturates : Obligations.AdpcmDecodeSaturates := by
  intro T code si est
  refine ⟨fun ss adj hss hadj => ?_, fun hsi => ?_, ?_⟩
  · rw [adpcmDecode, stepSize_of_getElem? hss, stepAdjust_of_getElem? hadj, clamp_eq_max_min _ (by decide),
      clamp_eq_max_min _ (by decide)]
  · have hss : si < T.stepSize.length := by rw [T.stepSize_length]; omega
    have hadj : code.toNat < T.stepAdjust.length := by rw [T.stepAdjust_length]; exact code.isLt
    exact ⟨_, _, List.getElem?_eq_getElem hss, List.getElem?_eq_getElem hadj⟩
  · obtain ⟨hlo, hhi⟩ := adpcmDecode_estimate_bounds T code si est
    exact ⟨hlo, hhi, adpcmDecode_index_bounds T code si est⟩

/-! ## adpcm_encode (R102) -/

/-- Four bits put together are the number they write. -/
theorem toNat_four_bits (b3 b2 b1 b0 : Bool) :
    (BitVec.ofBool b3 ++ BitVec.ofBool b2 ++ BitVec.ofBool b1 ++ BitVec.ofBool b0).toNat =
      8 * b3.toNat + 4 * b2.toNat + 2 * b1.toNat + b0.toNat := by
  revert b3 b2 b1 b0
  decide

/-- A threshold that is met is taken off the difference, one that is not leaves it alone. -/
theorem remainder_eq (m k : Nat) : (if k ≤ m then m - k else m) = m - (if k ≤ m then 1 else 0) * k := by
  split <;> simp

/-- Settles O29: each bit is its plane's threshold test, on what the planes above have left of the difference. -/
theorem adpcmEncodeQuantises : Obligations.AdpcmEncodeQuantises := by
  intro T sample est si ss hss
  refine ⟨?_, rfl⟩
  simp only [adpcmEncode, quantise, stepSize_of_getElem? hss, toNat_four_bits, Nat.shiftRight_eq_div_pow, Nat.reducePow,
    Bool.toNat, Bool.cond_decide, decide_eq_true_eq, ge_iff_le, remainder_eq, mul_ite, mul_one, mul_zero]

/-! ## Lockstep (R107) -/

/-- Decoding the codes of a stream reproduces the encoder's estimates and its final state. -/
theorem decodeFrom_encodeSamples (T : CodecTables) (xs : List Int) (st : Int × Int) :
    decodeFrom T ((encodeSamples T xs st).1.map Prod.fst) st =
      ((encodeSamples T xs st).1.map Prod.snd, (encodeSamples T xs st).2) := by
  induction xs generalizing st with
  | nil => rfl
  | cons x xs ih => simp [encodeSamples, decodeFrom, adpcmEncode, ih]

theorem encodeSamples_length (T : CodecTables) (xs : List Int) (st : Int × Int) :
    (encodeSamples T xs st).1.length = xs.length := by
  induction xs generalizing st with
  | nil => rfl
  | cons x xs ih => simp [encodeSamples, ih]

/-! ## narrow (R103) -/

/-- The truncating quotient written with divisions of what is not negative. -/
theorem narrow_eq (x : Int) : narrow x = if 0 ≤ x then x / 16 else -((-x) / 16) := by
  unfold narrow tdiv
  split
  · exact Int.tdiv_eq_ediv_of_nonneg ‹_›
  · rw [← Int.tdiv_eq_ediv_of_nonneg (by omega), Int.neg_tdiv, neg_neg]

/-- A narrowed sample fits 12 bits. -/
theorem narrow_bounds (s16 : BitVec 16) : -2048 ≤ narrow (sext s16) ∧ narrow (sext s16) ≤ 2047 := by
  have := BitVec.two_mul_toInt_lt (x := s16)
  have := BitVec.le_two_mul_toInt (x := s16)
  rw [narrow_eq, sext]
  split <;> omega

/-! ## Results held in registers (R6, log 14) -/

theorem toInt_tc12 {x : Int} (h : -2048 ≤ x ∧ x ≤ 2047) : (tc 12 x).toInt = x :=
  BitVec.toInt_ofInt_eq_self (by decide) h.1 (Int.lt_of_le_sub_one h.2)

theorem toNat_ofInt6 {x : Int} (h : 0 ≤ x ∧ x ≤ 48) : ((BitVec.ofInt 6 x).toNat : Int) = x := by
  rw [BitVec.toNat_ofInt]
  omega

end Sys2Proof.Machine

/-! SUPPORT. The nibble packer over a stream (R104 to R106): what the packer holds stands in front of the codes still to
come, so a step and the flush are the two ways to take a byte off `packStream`. -/

namespace Sys2Proof.Machine

/-! ## Code bytes (R81, R104) -/

@[simp] theorem lowCode_codeByte (c0 c1 : Code) : lowCode (codeByte c0 c1) = c0 := BitVec.extractLsb'_append_eq_right

@[simp] theorem highCode_codeByte (c0 c1 : Code) : highCode (codeByte c0 c1) = c1 := BitVec.extractLsb'_append_eq_left

/-! ## Steps and flush (R104, R106) -/

section
variable {p : Bool × Code}

theorem packStep_of_empty (h : p.1 = false) (c : Code) : packStep p c = ((true, c), none) := by simp [packStep, h]

theorem packStep_of_held (h : p.1 = true) (c : Code) : packStep p c = ((false, 0#4), some (codeByte p.2 c)) := by
  simp [packStep, h]

theorem packFlush_of_empty (h : p.1 = false) : packFlush p = (p, none) := by simp [packFlush, h]

theorem packFlush_of_held (h : p.1 = true) : packFlush p = ((false, 0#4), some (codeByte p.2 0#4)) := by
  simp [packFlush, h]

end

/-- The codes a packer has taken and not yet given out: one, or none. -/
def heldCodes (p : Bool × Code) : List Code := if p.1 then [p.2] else []

/-- A step gives out the byte its code completes, and holds the rest. -/
theorem packStream_held_cons (p : Bool × Code) (c : Code) (cs : List Code) :
    packStream (heldCodes p ++ c :: cs) =
      (packStep p c).2.toList ++ packStream (heldCodes (packStep p c).1 ++ cs) := by
  cases h : p.1 with
  | false => simp [packStep_of_empty h, heldCodes, h]
  | true => simp [packStep_of_held h, heldCodes, h, packStream]

/-- The flush gives out the byte of a held code. -/
theorem packStream_held (p : Bool × Code) : packStream (heldCodes p) = (packFlush p).2.toList := by
  cases h : p.1 with
  | false => simp [packFlush_of_empty h, heldCodes, h, packStream]
  | true => simp [packFlush_of_held h, heldCodes, h, packStream]

/-- One code more of a stream, with the bytes already given out. -/
def packNext (acc : (Bool × Code) × List Byte) (c : Code) : (Bool × Code) × List Byte :=
  ((packStep acc.1 c).1, acc.2 ++ (packStep acc.1 c).2.toList)

/-- Steps and a flush from any packer state pack what it holds and the codes. -/
theorem packNext_foldl_flush (cs : List Code) (acc : (Bool × Code) × List Byte) :
    (cs.foldl packNext acc).2 ++ (packFlush (cs.foldl packNext acc).1).2.toList =
      acc.2 ++ packStream (heldCodes acc.1 ++ cs) := by
  induction cs generalizing acc with
  | nil => simp [packStream_held]
  | cons c cs ih => rw [List.foldl_cons, ih, packStream_held_cons, packNext, List.append_assoc]

/-! ## The packed stream (R105) -/

theorem packStream_length (cs : List Code) : (packStream cs).length = (cs.length + 1) / 2 := by
  induction cs using packStream.induct with
  | case1 c0 c1 rest ih =>
    simp only [packStream, List.length_cons, ih]
    omega
  | case2 c => simp [packStream]
  | case3 => rfl

/-- Byte `j` holds codes `2j` and `2j + 1`, and 0 for a code past the end. -/
theorem packStream_getElem? {cs : List Code} {j : Nat} {b : Byte} (h : (packStream cs)[j]? = some b) :
    cs[2 * j]? = some (lowCode b) ∧
    (2 * j + 1 < cs.length → cs[2 * j + 1]? = some (highCode b)) ∧
    (cs.length ≤ 2 * j + 1 → highCode b = 0#4) := by
  induction cs using packStream.induct generalizing j with
  | case1 c0 c1 rest ih =>
    cases j with
    | zero =>
      obtain rfl : codeByte c0 c1 = b := by simpa [packStream] using h
      simp
    | succ j => simpa [Nat.mul_add, Nat.succ_le_iff] using ih (j := j) (by simpa [packStream] using h)
  | case2 c =>
    cases j with
    | zero =>
      obtain rfl : codeByte c 0#4 = b := by simpa [packStream] using h
      simp
    | succ j => simp [packStream] at h
  | case3 => simp [packStream] at h

/-- Settles O31. -/
theorem packStreamIsPackSteps : Obligations.PackStreamIsPackSteps := fun cs =>
  ⟨packNext_foldl_flush cs ((false, 0#4), []), packStream_length cs, fun _ _ => packStream_getElem?⟩

/-! ## Unpacking (R81, R119) -/

/-- Unpacking gives back the codes packed: a padding nibble is not among the first `n`. -/
theorem unpackCodes_packStream (cs : List Code) : unpackCodes (packStream cs) cs.length = cs := by
  induction cs using packStream.induct with
  | case1 c0 c1 rest ih => simpa [unpackCodes, packStream] using ih
  | case2 c => simp [unpackCodes, packStream]
  | case3 => rfl

/-- The codes of a byte, earlier first (R81). -/
def byteCodes (b : Byte) : List Code := [lowCode b, highCode b]

/-- The first `n` codes are those of the whole bytes and, for an odd `n`, the low nibble of the last byte. -/
theorem unpackCodes_eq {bytes : List Byte} {n : Nat} (h : bytes.length = (n + 1) / 2) :
    unpackCodes bytes n =
      (bytes.take (n / 2)).flatMap byteCodes ++
        if n % 2 = 1 then [lowCode (bytes.getD (n / 2) 0x00#8)] else [] := by
  induction bytes generalizing n with
  | nil =>
    obtain rfl : n = 0 := by simp at h; omega
    rfl
  | cons b bytes ih =>
    match n with
    | 0 => simp at h
    | 1 => rfl
    | m + 2 =>
      have hm : bytes.length = (m + 1) / 2 := by simp at h; omega
      simpa [unpackCodes, byteCodes, Nat.add_div_right, Nat.add_mod_right] using ih hm

end Sys2Proof.Machine

/-! SUPPORT. The eight codec commands on an unlatched block (R110 to R117), one equation for each, and what the responses
carry in their fields (R76, R77). -/

namespace Sys2Proof.Machine

variable {P : Parameters} {i : Instr} {s u : State} {d : Word32}

/-! ## The commands -/

/-- `exec` is the block built with its own parameters, as functions. -/
theorem exec_eq_execWith_block : exec = execWith Parameters.block := funext₂ exec_eq_execWith

/-- What holds of a block built with any parameters is stated of `exec` as well, the block built with its own. -/
theorem exec_and_execWith {A : Prop} {Q : Parameters → Prop} (h : ∀ P, Q P) (hexec : Q Parameters.block → A) :
    A ∧ ∀ P, Q P :=
  ⟨hexec (h _), h⟩

/-- An unlatched block answers a rule that completes with status 0 and the rule's data. -/
theorem execWith_of_ok (hf : s.fault = none) (h : ruleOf P i s = .ok (u, d)) : execWith P i s = .next (u.replied d) := by
  rw [execWith_of_clear P i hf, h]
  rfl

theorem execWith_arst (hf : s.fault = none) :
    execWith P .arst s = .next (((s.setCodec 0 0).setPacker (false, 0#4)).replied (crsp 0#12 0#6 0#4 none)) :=
  execWith_of_ok hf rfl

theorem execWith_anrw (hf : s.fault = none) (x : BitVec 16) :
    execWith P (.anrw x) s = .next (s.replied ((tc 12 (narrow (sext x))).setWidth 32)) :=
  execWith_of_ok hf rfl

theorem execWith_adec (hf : s.fault = none) (code : Code) :
    execWith P (.adec code) s =
      .next ((s.decodeCode P.codec code).replied ((s.decodeCode P.codec code).crsp code none)) :=
  execWith_of_ok hf rfl

theorem execWith_aenc (hf : s.fault = none) (x : BitVec 12) :
    execWith P (.aenc x) s =
      .next ((s.encodeSample P.codec (sext x)).replied
        ((s.encodeSample P.codec (sext x)).crsp (s.codeFor P.codec (sext x)) none)) :=
  execWith_of_ok hf rfl

theorem execWith_apck (hf : s.fault = none) (code : Code) :
    execWith P (.apck code) s =
      .next ((s.setPacker (packStep s.packer code).1).replied (s.crsp code (packStep s.packer code).2)) :=
  execWith_of_ok hf rfl

theorem execWith_aflush (hf : s.fault = none) :
    execWith P .aflush s =
      .next ((s.setPacker (packFlush s.packer).1).replied (s.crsp 0#4 (packFlush s.packer).2)) :=
  execWith_of_ok hf rfl

theorem execWith_aencs (hf : s.fault = none) (x : BitVec 16) :
    execWith P (.aencs x) s =
      let code := s.codeFor P.codec (narrow (sext x))
      let t := s.encodeSample P.codec (narrow (sext x))
      .next ((t.setPacker (packStep s.packer code).1).replied (t.crsp code (packStep s.packer code).2)) :=
  execWith_of_ok hf rfl

theorem execWith_adecb (hf : s.fault = none) (byte : Byte) :
    execWith P (.adecb byte) s =
      let t1 := s.decodeCode P.codec (lowCode byte)
      let t2 := t1.decodeCode P.codec (highCode byte)
      .next (t2.replied (drsp2 t1.est t2.est t2.si)) :=
  execWith_of_ok hf rfl

@[simp] theorem State.replied_replies (s : State) (d : Word32) :
    (s.replied d).replies = s.replies ++ [⟨0#4, d⟩] := rfl

/-! ## The response fields -/

section
variable {k l m n p q : Nat} {a : BitVec k} {b : BitVec l} {c : BitVec m} {d : BitVec n} {e : BitVec p} {f : BitVec q}

theorem extractLsb'_append_fourth_last : (a ++ b ++ c ++ d ++ e).extractLsb' (m + n + p) l = b := by
  rw [BitVec.extractLsb'_append_eq_of_le (Nat.le_add_left p (m + n)), Nat.add_sub_cancel, extractLsb'_append_third_last]

theorem extractLsb'_append_first_of_six : (a ++ b ++ c ++ d ++ e ++ f).extractLsb' (l + m + n + p + q) k = a := by
  rw [BitVec.extractLsb'_append_eq_of_le (Nat.le_add_left q _), Nat.add_sub_cancel,
    BitVec.extractLsb'_append_eq_of_le (Nat.le_add_left p _), Nat.add_sub_cancel,
    BitVec.extractLsb'_append_eq_of_le (Nat.le_add_left n _), Nat.add_sub_cancel,
    BitVec.extractLsb'_append_eq_of_le (Nat.le_add_left m _), Nat.add_sub_cancel, BitVec.extractLsb'_append_eq_left]

end

section
variable (est e1 e2 : BitVec 12) (si : BitVec 6) (code : Code) (byte : Option Byte)

@[simp] theorem crsp_est : (crsp est si code byte).extractLsb' 0 12 = est := BitVec.extractLsb'_append_eq_right

@[simp] theorem crsp_code : (crsp est si code byte).extractLsb' 12 4 = code := extractLsb'_append_second_last

theorem crsp_byteValid : (crsp est si code byte).getLsbD 22 = byte.isSome := by
  have hbit : (crsp est si code byte).extractLsb' 22 1 = BitVec.ofBool byte.isSome :=
    extractLsb'_append_fourth_last (m := 6) (n := 4) (p := 12)
  simpa using congrArg (·.getLsbD 0) hbit

@[simp] theorem crsp_byte : (crsp est si code byte).extractLsb' 24 8 = byte.getD 0#8 :=
  extractLsb'_append_first_of_six (l := 1) (m := 1) (n := 6) (p := 4) (q := 12)

@[simp] theorem drsp2_first : (drsp2 e1 e2 si).extractLsb' 0 12 = e1 := BitVec.extractLsb'_append_eq_right

@[simp] theorem drsp2_second : (drsp2 e1 e2 si).extractLsb' 12 12 = e2 := extractLsb'_append_second_last

end

/-! ## The codec state held in the registers -/

/-- The codec state `(est, si)` as the functions of R101 and R102 take it. -/
def State.codecState (s : State) : Int × Int := (s.est.toInt, (s.si.toNat : Int))

@[simp] theorem State.replied_codecState (s : State) (d : Word32) : (s.replied d).codecState = s.codecState := rfl

/-- A decoding step writes the state of `adpcm_decode`, no bit of it lost (R112). -/
theorem State.decodeCode_codecState (T : CodecTables) (s : State) (code : Code) :
    (s.decodeCode T code).codecState = adpcmDecode T code s.si.toNat s.est.toInt :=
  Prod.ext (toInt_tc12 (adpcmDecode_estimate_bounds T code _ _)) (toNat_ofInt6 (adpcmDecode_index_bounds T code _ _))

/-- An encoding step writes the state of `adpcm_encode` (R113). -/
theorem State.encodeSample_codecState (T : CodecTables) (s : State) (sample : Int) :
    (s.encodeSample T sample).codecState = (adpcmEncode T sample s.est.toInt s.si.toNat).2 :=
  s.decodeCode_codecState T _

/-- The narrowed sample survives its 12 bits. -/
theorem sext_tc_narrow (x : BitVec 16) : sext (tc 12 (narrow (sext x))) = narrow (sext x) := toInt_tc12 (narrow_bounds x)

end Sys2Proof.Machine

/-! SUPPORT. The statements about the single codec commands: each is its encoding, then its equation. -/

namespace Sys2Proof.Machine

/-! ## ARST, ANRW, APCK, AFLUSH: no table is read -/

/-- Settles O32. -/
theorem arstStartsAPass : Obligations.ArstStartsAPass := by
  refine ⟨decode_of_reserved_all (o := .arst) rfl fun _ => rfl, fun s hf => ?_⟩
  rw [exec_eq_execWith, execWith_arst hf]
  rfl

theorem exec_anrw {s : State} (hf : s.fault = none) (x : BitVec 16) :
    exec (.anrw x) s = .next (s.replied (0#20 ++ tc 12 (narrow (sext x)))) := by
  rw [exec_eq_execWith, execWith_anrw hf, BitVec.setWidth_eq_append (by decide)]
  rfl

/-- Settles O33. -/
theorem anrwNarrowsTowardZero : Obligations.AnrwNarrowsTowardZero := by
  refine ⟨decode_of_reserved_high (o := .anrw) (lo := 16) rfl (by decide) (by decide) fun _ => rfl,
    fun s x hf => ⟨_, exec_anrw hf x, ?_⟩, fun s hf => ?_⟩
  · rw [toInt_tc12 (narrow_bounds x), narrow_eq, sext]
  · simp only [exec_anrw hf]
    exact ⟨rfl, rfl, rfl, rfl, rfl, rfl, rfl⟩

/-- Settles O36, by the two phases of the packer. -/
theorem apckPacksOneCode : Obligations.ApckPacksOneCode := by
  refine ⟨decode_of_reserved_high (o := .apck) (lo := 4) rfl (by decide) (by decide) fun _ => rfl,
    fun s code hf hp => ?_, fun s code hf hp => ?_⟩
  · rw [exec_eq_execWith, execWith_apck hf, packStep_of_empty (p := s.packer) hp]
    rfl
  · rw [exec_eq_execWith, execWith_apck hf, packStep_of_held (p := s.packer) hp]
    rfl

/-- Settles O37, by the two phases of the packer. -/
theorem aflushEndsACodeStream : Obligations.AflushEndsACodeStream := by
  refine ⟨decode_of_reserved_all (o := .aflush) rfl fun _ => rfl, fun s hf hp => ?_, fun s hf hp => ?_⟩
  · rw [exec_eq_execWith, execWith_aflush hf, packFlush_of_held (p := s.packer) hp]
    rfl
  · rw [exec_eq_execWith, execWith_aflush hf, packFlush_of_empty (p := s.packer) hp]
    rfl

/-! ## ADEC, AENC -/

/-- Settles O34. -/
theorem adecDecodesOneCode : Obligations.AdecDecodesOneCode := by
  refine ⟨decode_of_reserved_high (o := .adec) (lo := 4) rfl (by decide) (by decide) fun _ => rfl,
    exec_and_execWith (fun P s code hf => ?_) id⟩
  exact ⟨_, _, execWith_adec hf code, s.decodeCode_codecState P.codec code⟩

/-- Settles O35. -/
theorem aencEncodesOneSample : Obligations.AencEncodesOneSample := by
  refine ⟨decode_of_reserved_high (o := .aenc) (lo := 12) rfl (by decide) (by decide) fun _ => rfl,
    exec_and_execWith (fun P s x hf => ?_) id⟩
  exact ⟨_, _, _, execWith_aenc hf x, Prod.ext rfl (s.encodeSample_codecState P.codec x.toInt)⟩

/-! ## Lockstep on the registers, and the two composed commands -/

/-- AENC and ADEC of its code reach the same state with the same answer (R107). -/
theorem execWith_aenc_eq_adec {P : Parameters} {s : State} (hf : s.fault = none) (x : BitVec 12) :
    execWith P (.aenc x) s = execWith P (.adec (s.codeFor P.codec (sext x))) s := by
  rw [execWith_aenc hf, execWith_adec hf]
  rfl

/-- Settles O30. -/
theorem encoderDecoderLockstep : Obligations.EncoderDecoderLockstep := by
  refine ⟨fun _ _ _ _ => rfl, decodeFrom_encodeSamples, exec_and_execWith (fun P s s12 hf => ?_) id⟩
  refine ⟨_, _, _, execWith_aenc hf s12, State.replied_replies _ _, ?_, rfl⟩
  rw [State.crsp, crsp_code, ← execWith_aenc_eq_adec hf, execWith_aenc hf]
  rfl

/-- The narrowed sample is read back from ANRW's response. -/
theorem extractLsb'_anrw_data (y : BitVec 12) : (y.setWidth 32).extractLsb' 0 12 = y := by
  rw [BitVec.setWidth_eq_append (by decide)]
  exact BitVec.extractLsb'_append_eq_right

/-- AENC of the sample ANRW answered, on the state ANRW left. -/
theorem execWith_aenc_after_anrw {P : Parameters} {s : State} (hf : s.fault = none) (x : BitVec 16) (d : Word32) :
    execWith P (.aenc (((tc 12 (narrow (sext x))).setWidth 32).extractLsb' 0 12)) (s.replied d) =
      .next (((s.encodeSample P.codec (narrow (sext x))).replied d).replied
        ((s.encodeSample P.codec (narrow (sext x))).crsp (s.codeFor P.codec (narrow (sext x))) none)) := by
  rw [extractLsb'_anrw_data, execWith_aenc (s := s.replied d) hf, sext_tc_narrow]
  rfl

/-- APCK of the code AENC answered. -/
theorem execWith_apck_after_aenc {P : Parameters} {s : State} (hf : s.fault = none) (u : State) (code : Code) :
    execWith P (.apck ((u.crsp code none).extractLsb' 12 4)) s =
      .next ((s.setPacker (packStep s.packer code).1).replied (s.crsp code (packStep s.packer code).2)) := by
  rw [State.crsp, crsp_code]
  exact execWith_apck hf code

/-- Settles O38: the sample of ANRW and the code of AENC are read back from their responses. -/
theorem aencsIsNarrowEncodePack : Obligations.AencsIsNarrowEncodePack := by
  refine ⟨decode_of_reserved_high (o := .aencs) (lo := 16) rfl (by decide) (by decide) fun _ => rfl,
    exec_and_execWith (fun P s x hf => ?_) id⟩
  exact ⟨_, _, _, _, ⟨0#4, _⟩, ⟨0#4, _⟩, ⟨0#4, _⟩, execWith_anrw hf x, s.replied_replies _,
    execWith_aenc_after_anrw hf x _, State.replied_replies _ _, execWith_apck_after_aenc (by exact hf) _ _,
    State.replied_replies _ _, execWith_aencs hf x, rfl⟩

/-- The second ADEC of a code byte, on the state the first one left. -/
theorem execWith_adec_after_adec {P : Parameters} {s : State} (hf : s.fault = none) (code : Code) (d : Word32) :
    execWith P (.adec code) (s.replied d) =
      .next (((s.decodeCode P.codec code).replied d).replied ((s.decodeCode P.codec code).crsp code none)) :=
  execWith_adec (s := s.replied d) hf code

/-- Settles O39. -/
theorem adecbIsTwoAdecs : Obligations.AdecbIsTwoAdecs := by
  refine ⟨decode_of_reserved_high (o := .adecb) (lo := 8) rfl (by decide) (by decide) fun _ => rfl,
    exec_and_execWith (fun P s byte hf => ?_) id⟩
  exact ⟨_, _, _, execWith_adec hf _, execWith_adec_after_adec (by exact hf) _ _, execWith_adecb hf byte, rfl⟩

end Sys2Proof.Machine

/-! SUPPORT. Sequences of commands (R89): a list of commands that all complete is run command by command, and what the host
collects from the responses is collected piece by piece. -/

namespace Sys2Proof.Machine

variable {P : Parameters} {i : Instr} {is js : List Instr} {s t u : State} {rs qs : List Response} {d : Word32}

/-! ## Runs of commands that complete -/

theorem execAll_cons {run : Instr → State → Outcome State} (h : run i s = .next t) :
    execAll run (i :: is) s = execAll run is t := by
  simp only [execAll, h]

theorem execAll_append {run : Instr → State → Outcome State} (h : execAll run is s = .next t) :
    execAll run (is ++ js) s = execAll run js t := by
  induction is generalizing s with
  | nil =>
    obtain rfl : s = t := by simpa [execAll] using h
    rfl
  | cons i is ih =>
    cases hi : run i s with
    | next u =>
      rw [execAll_cons hi] at h
      rw [List.cons_append, execAll_cons hi, ih h]
    | fault f => simp [execAll, hi] at h
    | refused r => simp [execAll, hi] at h

/-- The commands `is` of a block built with `P` all complete on the unlatched state `s`, answer `rs`, one response each, and
leave the unlatched state `t`. -/
structure RunsTo (P : Parameters) (is : List Instr) (s t : State) (rs : List Response) : Prop where
  run : execAll (execWith P) is s = .next t
  replies : t.replies = s.replies ++ rs
  length : rs.length = is.length
  status : ∀ r ∈ rs, r.status = 0#4
  clear : t.fault = none

theorem RunsTo.nil (hf : s.fault = none) : RunsTo P [] s s [] where
  run := rfl
  replies := by simp
  length := rfl
  status := by simp
  clear := hf

/-- One command whose rule completes. -/
theorem RunsTo.one (hf : s.fault = none) (hok : ruleOf P i s = .ok (u, d)) (hu : u.fault = none) :
    RunsTo P [i] s (u.replied d) [⟨0#4, d⟩] where
  run := by rw [execAll_cons (execWith_of_ok hf hok), execAll]
  replies := by rw [State.replied_replies, (ruleOf_ok_port hok).2]
  length := rfl
  status := by simp
  clear := hu

theorem RunsTo.append (h : RunsTo P is s t rs) (h' : RunsTo P js t u qs) : RunsTo P (is ++ js) s u (rs ++ qs) where
  run := by rw [execAll_append h.run, h'.run]
  replies := by rw [h'.replies, h.replies, List.append_assoc]
  length := by rw [List.length_append, List.length_append, h.length, h'.length]
  status := fun r hr => (List.mem_append.1 hr).elim (h.status r) (h'.status r)
  clear := h'.clear

theorem RunsTo.cons (h : RunsTo P [i] s t rs) (h' : RunsTo P is t u qs) : RunsTo P (i :: is) s u (rs ++ qs) :=
  h.append h'

/-- ARST at the start of a pass: the codec state is (0, 0) and nothing is held (R110). -/
theorem RunsTo.arst (hf : s.fault = none) :
    RunsTo P [.arst] s (((s.setCodec 0 0).setPacker (false, 0#4)).replied (crsp 0#12 0#6 0#4 none))
      [⟨0#4, crsp 0#12 0#6 0#4 none⟩] :=
  .one hf rfl hf

/-! ## What the host collects (R89) -/

theorem collectBytes_append (rs qs : List Response) :
    collectBytes (rs ++ qs) = collectBytes rs ++ collectBytes qs := List.filterMap_append

/-- A codec response gives the host the byte it carries, if it carries one (R76). -/
theorem collectBytes_crsp (est : BitVec 12) (si : BitVec 6) (code : Code) (byte : Option Byte) :
    collectBytes [⟨0#4, crsp est si code byte⟩] = byte.toList := by
  simp only [collectBytes, List.filterMap_cons, List.filterMap_nil, crsp_byteValid, crsp_byte]
  cases byte <;> rfl

theorem collectEstimates_append (h : rs.length = is.length) :
    collectEstimates (is ++ js) (rs ++ qs) = collectEstimates is rs ++ collectEstimates js qs := by
  simp [collectEstimates, List.zip_append h.symm]

end Sys2Proof.Machine

/-! SUPPORT. ENCSTREAM and DECSTREAM compute the functions on whole streams (R118, R119). -/

namespace Sys2Proof.Machine

variable {P : Parameters} {s : State}

/-! ## ENCSTREAM -/

/-- One sample of the encoder, on the registers. -/
theorem encodeSamples_cons_codecState (T : CodecTables) (s : State) (x : Int) (xs : List Int) :
    encodeSamples T (x :: xs) s.codecState =
      ((s.codeFor T x, (s.encodeSample T x).codecState.1) :: (encodeSamples T xs (s.encodeSample T x).codecState).1,
        (encodeSamples T xs (s.encodeSample T x).codecState).2) := by
  rw [State.encodeSample_codecState]
  rfl

/-- From any codec and packer state, AENCS on each sample and then AFLUSH give out the packed bytes of what the packer held
and of the codes, and leave the encoder's final state. -/
theorem runsTo_aencs_aflush (xs : List (BitVec 16)) (hf : s.fault = none) :
    ∃ t rs, RunsTo P (xs.map .aencs ++ [.aflush]) s t rs ∧
      collectBytes rs = packStream (heldCodes s.packer ++
        (encodeSamples P.codec (xs.map fun x => narrow (sext x)) s.codecState).1.map Prod.fst) ∧
      t.codecState = (encodeSamples P.codec (xs.map fun x => narrow (sext x)) s.codecState).2 ∧ t.nph = false := by
  induction xs generalizing s with
  | nil =>
    refine ⟨_, _, .one hf rfl hf, ?_, rfl, ?_⟩
    · rw [State.crsp, collectBytes_crsp, ← packStream_held]
      simp [encodeSamples]
    · cases hp : s.packer.1 with
      | false => exact (congrArg (·.1.1) (packFlush_of_empty hp)).trans hp
      | true => exact congrArg (·.1.1) (packFlush_of_held hp)
  | cons x xs ih =>
    have hone := RunsTo.one (P := P) (i := .aencs x) hf rfl hf
    obtain ⟨t, rs, hrest, hbytes, hstate, hnph⟩ := ih hone.clear
    simp only [List.map_cons, encodeSamples_cons_codecState, List.cons_append]
    refine ⟨t, _, hone.cons hrest, ?_, hstate, hnph⟩
    rw [collectBytes_append, State.crsp, collectBytes_crsp, hbytes]
    exact (packStream_held_cons _ _ _).symm

/-- After ARST the codec and the packer are as `encode_stream` starts (R110, R118). -/
theorem runsTo_encstream (xs : List (BitVec 16)) (hf : s.fault = none) :
    ∃ t rs, RunsTo P (macroEncstream xs) s t rs ∧ collectBytes rs = (encodeStream P.codec xs).1 ∧
      t.codecState = (encodeStream P.codec xs).2 ∧ t.nph = false := by
  have harst := RunsTo.arst (P := P) hf
  obtain ⟨t, rs, hrest, hbytes, hstate, hnph⟩ := runsTo_aencs_aflush xs harst.clear
  refine ⟨t, _, harst.cons hrest, ?_, hstate, hnph⟩
  rw [collectBytes_append, collectBytes_crsp, hbytes]
  rfl

theorem encodeStream_length (T : CodecTables) (xs : List (BitVec 16)) :
    (encodeStream T xs).1.length = (xs.length + 1) / 2 := by
  simp [encodeStream, encodePass, packStream_length, encodeSamples_length]

/-- Settles O57. -/
theorem encstreamComputesEncodeStream : Obligations.EncstreamComputesEncodeStream := by
  refine exec_and_execWith (fun P s xs hf => ?_) (exec_eq_execWith_block ▸ id)
  obtain ⟨t, rs, hrun, hbytes, hstate, hnph⟩ := runsTo_encstream (P := P) xs hf
  refine ⟨t, rs, hrun.run, hrun.replies, ?_, hrun.status, hbytes, ?_, hstate, hnph⟩
  · simp [hrun.length, macroEncstream]
  · rw [hbytes, encodeStream_length]

/-! ## DECSTREAM -/

theorem decodeFrom_append (T : CodecTables) (cs ds : List Code) (st : Int × Int) :
    decodeFrom T (cs ++ ds) st =
      ((decodeFrom T cs st).1 ++ (decodeFrom T ds (decodeFrom T cs st).2).1,
        (decodeFrom T ds (decodeFrom T cs st).2).2) := by
  induction cs generalizing st with
  | nil => rfl
  | cons c cs ih => simp [decodeFrom, ih]

/-- The commands `is` decode the codes `cs`: on every unlatched state they complete, the host collects the estimates of
`adpcm_decode` threaded over the codes, and the registers hold its final state. -/
def Decodes (P : Parameters) (is : List Instr) (cs : List Code) : Prop :=
  ∀ s : State, s.fault = none → ∃ t rs, RunsTo P is s t rs ∧
    (collectEstimates is rs, t.codecState) = decodeFrom P.codec cs s.codecState

theorem Decodes.nil : Decodes P [] [] := fun s hf => ⟨s, [], .nil hf, rfl⟩

theorem Decodes.append {is js : List Instr} {cs ds : List Code} (h : Decodes P is cs) (h' : Decodes P js ds) :
    Decodes P (is ++ js) (cs ++ ds) := by
  intro s hf
  obtain ⟨t, rs, hrun, heq⟩ := h s hf
  obtain ⟨u, qs, hrun', heq'⟩ := h' t hrun.clear
  refine ⟨u, rs ++ qs, hrun.append hrun', ?_⟩
  rw [decodeFrom_append, ← heq, ← heq', collectEstimates_append hrun.length]

/-- One code of the decoder, on the registers. -/
theorem decodeFrom_cons_codecState (T : CodecTables) (s : State) (c : Code) (cs : List Code) :
    decodeFrom T (c :: cs) s.codecState =
      (sext (s.decodeCode T c).est :: (decodeFrom T cs (s.decodeCode T c).codecState).1,
        (decodeFrom T cs (s.decodeCode T c).codecState).2) := by
  have hest : sext (s.decodeCode T c).est = (s.decodeCode T c).codecState.1 := rfl
  rw [hest, State.decodeCode_codecState]
  rfl

theorem Decodes.adec (c : Code) : Decodes P [.adec c] [c] := by
  intro s hf
  refine ⟨_, _, .one hf rfl hf, ?_⟩
  rw [decodeFrom_cons_codecState]
  simp [collectEstimates, responseEstimates, State.crsp, decodeFrom]

theorem Decodes.adecb (b : Byte) : Decodes P [.adecb b] (byteCodes b) := by
  intro s hf
  refine ⟨_, _, .one hf rfl hf, ?_⟩
  rw [byteCodes, decodeFrom_cons_codecState, decodeFrom_cons_codecState]
  simp [collectEstimates, responseEstimates, decodeFrom]

theorem Decodes.map_adecb (bytes : List Byte) : Decodes P (bytes.map .adecb) (bytes.flatMap byteCodes) := by
  induction bytes with
  | nil => exact .nil
  | cons b bytes ih => exact (Decodes.adecb b).append ih

/-- The commands of DECSTREAM after ARST decode the first `n` codes of the bytes. -/
theorem Decodes.stream {bytes : List Byte} {n : Nat} (h : bytes.length = (n + 1) / 2) :
    Decodes P ((bytes.take (n / 2)).map .adecb ++ if n % 2 = 1 then [.adec (lowCode (bytes.getD (n / 2) 0x00#8))] else [])
      (unpackCodes bytes n) := by
  rw [unpackCodes_eq h]
  refine (Decodes.map_adecb _).append ?_
  split
  · exact .adec _
  · exact .nil

/-- The codes unpacked from an encoded stream are the encoder's. -/
theorem unpackCodes_encodeStream (T : CodecTables) (xs : List (BitVec 16)) :
    unpackCodes (encodeStream T xs).1 xs.length = (encodePass T xs).1.map Prod.fst := by
  simpa [encodeStream, encodePass, encodeSamples_length] using
    unpackCodes_packStream ((encodePass T xs).1.map Prod.fst)

/-- After ARST the decoder is as `decode_stream` starts (R110, R119). -/
theorem runsTo_decstream {bytes : List Byte} {n : Nat} (h : bytes.length = (n + 1) / 2) (hf : s.fault = none) :
    ∃ t rs, RunsTo P (macroDecstream bytes n) s t rs ∧
      (collectEstimates (macroDecstream bytes n) rs, t.codecState) = decodeStream P.codec bytes n := by
  have harst := RunsTo.arst (P := P) hf
  obtain ⟨t, rs, hrest, heq⟩ := Decodes.stream h _ harst.clear
  exact ⟨t, _, harst.cons hrest, heq⟩

/-- Settles O58: DECSTREAM decodes the unpacked codes, and the codes unpacked from the encoder's bytes are its own. -/
theorem decstreamComputesDecodeStream : Obligations.DecstreamComputesDecodeStream := by
  refine and_assoc.1 ⟨exec_and_execWith (fun P s bytes n hf hlen => ?_) (exec_eq_execWith_block ▸ id), fun T xs => ?_⟩
  · obtain ⟨t, rs, hrun, heq⟩ := runsTo_decstream (P := P) hlen hf
    exact ⟨t, rs, hrun.run, hrun.replies, hrun.status, congrArg Prod.fst heq, congrArg Prod.snd heq⟩
  · rw [decodeStream, unpackCodes_encodeStream]
    exact decodeFrom_encodeSamples T _ _

end Sys2Proof.Machine

/-! SUPPORT. Decoding the word of an opcode that reserves no operand bit (R75, R90). -/

namespace Sys2Proof

/-- Decoding the word of an opcode without reserved bits. -/
theorem decode_of_reserved_none {o : Opcode} (hnone : o.reserved = 0#32)
    (hidx : ∀ arg, indexAccepted (o.operands arg) = true) (arg : Word32) :
    decode (o.code ++ arg) = some (o.operands arg) := by
  rw [decode_code_append, hnone, BitVec.and_zero, if_pos ⟨rfl, hidx arg⟩]

end Sys2Proof

/-! SUPPORT. The resampler in integers (R133, R136): a tick conserves the accumulator and the samples kept, so after any
number of ticks both are one division's remainder and quotient. -/

namespace Sys2Proof.Machine

variable {fin fout acc : Nat}

/-! ## One tick (R133) -/

theorem resampleStep_of_le (h : fin ≤ acc + fout) : resampleStep acc fin fout = (acc + fout - fin, true) := if_pos h

theorem resampleStep_of_lt (h : acc + fout < fin) : resampleStep acc fin fout = (acc + fout, false) :=
  if_neg (Nat.not_le.2 h)

/-- What a tick adds to the accumulator it leaves there, except one FIN per sample kept. -/
theorem resampleStep_balance (acc fin fout : Nat) :
    (resampleStep acc fin fout).1 + fin * (resampleStep acc fin fout).2.toNat = acc + fout := by
  rcases Nat.lt_or_ge (acc + fout) fin with h | h
  · simp [resampleStep_of_lt h]
  · simp [resampleStep_of_le h, Nat.sub_add_cancel h]

theorem resampleStep_fst_lt (hacc : acc < fin) (hle : fout ≤ fin) : (resampleStep acc fin fout).1 < fin := by
  rcases Nat.lt_or_ge (acc + fout) fin with h | h
  · rwa [resampleStep_of_lt h]
  · rw [resampleStep_of_le h]
    exact Nat.sub_lt_left_of_lt_add h (by omega)

/-- A tick from the remainder of `n` leaves the remainder of `n + fout`, and keeps its sample exactly when the quotient
rises. -/
theorem resampleStep_mod (hpos : 0 < fin) (hle : fout ≤ fin) (n : Nat) :
    resampleStep (n % fin) fin fout = ((n + fout) % fin, decide (n / fin < (n + fout) / fin)) := by
  have hlt := resampleStep_fst_lt (Nat.mod_lt n hpos) hle
  have hbal := resampleStep_balance (n % fin) fin fout
  have hsplit := Nat.mod_add_div n fin
  obtain ⟨hdiv, hmod⟩ : (n + fout) / fin = n / fin + (resampleStep (n % fin) fin fout).2.toNat ∧
      (n + fout) % fin = (resampleStep (n % fin) fin fout).1 := by
    refine (Nat.div_mod_unique hpos).2 ⟨?_, hlt⟩
    rw [Nat.mul_add]
    omega
  rw [hdiv, hmod]
  cases h : (resampleStep (n % fin) fin fout).2 <;> simp [Prod.ext_iff, h]

/-! ## A stream (R136) -/

theorem resampleFrom_fst_cons (fin fout : Nat) (x : BitVec 16) (xs : List (BitVec 16)) (acc : Nat) :
    (resampleFrom fin fout (x :: xs) acc).1 =
      (if (resampleStep acc fin fout).2 then [x] else []) ++
        (resampleFrom fin fout xs (resampleStep acc fin fout).1).1 := by
  simp only [resampleFrom]
  split <;> rfl

theorem resampleFrom_snd_cons (fin fout : Nat) (x : BitVec 16) (xs : List (BitVec 16)) (acc : Nat) :
    (resampleFrom fin fout (x :: xs) acc).2 = (resampleFrom fin fout xs (resampleStep acc fin fout).1).2 := rfl

/-- The balance of one tick, summed over the stream: no rounding is lost, so the count cannot drift. -/
theorem resampleFrom_balance (fin fout : Nat) (xs : List (BitVec 16)) (acc : Nat) :
    (resampleFrom fin fout xs acc).2 + fin * (resampleFrom fin fout xs acc).1.length = acc + xs.length * fout := by
  induction xs generalizing acc with
  | nil => simp [resampleFrom]
  | cons x xs ih =>
    have hstep := resampleStep_balance acc fin fout
    have hrest := ih (resampleStep acc fin fout).1
    have hkept : (if (resampleStep acc fin fout).2 then [x] else []).length = (resampleStep acc fin fout).2.toNat := by
      cases (resampleStep acc fin fout).2 <;> rfl
    rw [resampleFrom_fst_cons, resampleFrom_snd_cons, List.length_append, hkept, Nat.mul_add, List.length_cons,
      Nat.add_one_mul]
    omega

theorem resampleFrom_snd_lt (hacc : acc < fin) (hle : fout ≤ fin) (xs : List (BitVec 16)) :
    (resampleFrom fin fout xs acc).2 < fin := by
  induction xs generalizing acc with
  | nil => exact hacc
  | cons x xs ih =>
    rw [resampleFrom_snd_cons]
    exact ih (resampleStep_fst_lt hacc hle)

/-- From the accumulator of tick `i`, the ticks that keep their samples are those at which `i * fout / fin` rises. -/
theorem resampleFrom_fst (hpos : 0 < fin) (hle : fout ≤ fin) (xs : List (BitVec 16)) (i : Nat) :
    (resampleFrom fin fout xs (i * fout % fin)).1 =
      ((xs.zipIdx i).filter fun p => decide (p.2 * fout / fin < (p.2 + 1) * fout / fin)).map Prod.fst := by
  induction xs generalizing i with
  | nil => rfl
  | cons x xs ih =>
    rw [resampleFrom_fst_cons, resampleStep_mod hpos hle, ← Nat.add_one_mul, ih, List.zipIdx_cons, List.filter_cons]
    split <;> rfl

/-- Settles O43: the stream's balance is a division of `N * fout` by `fin`, which has one quotient and one remainder. -/
theorem resampleCountIsExact : Obligations.ResampleCountIsExact := by
  intro xs fin fout hfout hle
  have hpos : 0 < fin := by omega
  have hbal := resampleFrom_balance fin fout xs 0
  rw [Nat.zero_add] at hbal
  obtain ⟨hdiv, hmod⟩ := (Nat.div_mod_unique hpos).2 ⟨hbal, resampleFrom_snd_lt hpos hle xs⟩
  have hkept := resampleFrom_fst hpos hle xs 0
  rw [Nat.zero_mul, Nat.zero_mod] at hkept
  exact ⟨hdiv.symm, hmod.symm, hkept⟩

end Sys2Proof.Machine

/-! SUPPORT. The three resampler commands on an unlatched block (R132, R134, R135), and what an RSMP response gives the
host (R78, R89). -/

namespace Sys2Proof.Machine

variable {P : Parameters} {i : Instr} {s u : State} {d : Word32}

/-! ## The commands -/

theorem exec_of_ok (hf : s.fault = none) (h : ruleOf Parameters.block i s = .ok (u, d)) :
    exec i s = .next (u.replied d) := by
  rw [exec_eq_execWith, execWith_of_ok hf h]

theorem exec_rrst (hf : s.fault = none) : exec .rrst s = .next ((s.setAcc 0).replied 0#32) := exec_of_ok hf rfl

theorem exec_dmix (hf : s.fault = none) (a b : BitVec 16) :
    exec (.dmix a b) s = .next (s.replied (0#16 ++ tc 16 (downmix (sext a) (sext b)))) := by
  rw [exec_of_ok (i := .dmix a b) hf rfl, BitVec.setWidth_eq_append (by decide)]
  rfl

/-- Both frequencies are configured and the output's is at most the input's, so RSMP ticks (R135). -/
structure State.RateConfigured (s : State) : Prop where
  fin : s.fin ≠ 0#24
  fout : s.fout ≠ 0#24
  le : s.fout.toNat ≤ s.fin.toNat

theorem ruleRsmp_of_configured (hc : s.RateConfigured) (x : BitVec 16) :
    ruleRsmp x s =
      .ok (s.setAcc (resampleStep s.acc.toNat s.fin.toNat s.fout.toNat).1,
        rsmpData (resampleStep s.acc.toNat s.fin.toNat s.fout.toNat).2 x) :=
  if_neg (by simp [hc.fin, hc.fout, hc.le])

theorem ruleRsmp_of_unconfigured (hc : ¬ s.RateConfigured) (x : BitVec 16) : ruleRsmp x s = .error .param := by
  refine if_pos (by_contra fun h => hc ?_)
  obtain ⟨hfin, hfout, hle⟩ := by simpa only [not_or] using h
  exact ⟨hfin, hfout, Nat.not_lt.1 hle⟩

theorem exec_rsmp (hf : s.fault = none) (hc : s.RateConfigured) (x : BitVec 16) :
    exec (.rsmp x) s =
      .next ((s.setAcc (resampleStep s.acc.toNat s.fin.toNat s.fout.toNat).1).replied
        (rsmpData (resampleStep s.acc.toNat s.fin.toNat s.fout.toNat).2 x)) :=
  exec_of_ok hf (ruleRsmp_of_configured hc x)

theorem exec_rsmp_of_unconfigured (hf : s.fault = none) (hc : ¬ s.RateConfigured) (x : BitVec 16) :
    exec (.rsmp x) s = .next (s.raised .param 2#4 0x22#8 (0#16 ++ x)) := by
  have hrule : ruleOf Parameters.block (.rsmp x) s = .error .param := ruleRsmp_of_unconfigured hc x
  rw [exec_of_clear _ hf, hrule, State.finish, State.fail_of_clear hf, op_encode, arg_encode]
  rfl

/-- An accumulator below FIN, which has 24 bits, is held exactly by ACC (R137). -/
theorem State.setAcc_acc_toNat {n : Nat} (h : n < s.fin.toNat) : (s.setAcc n).acc.toNat = n := by
  rw [State.setAcc_acc, BitVec.toNat_ofNat]
  omega

@[simp] theorem State.replied_acc (s : State) (d : Word32) : (s.replied d).acc = s.acc := rfl

/-! ## The down-mix (R131) -/

theorem downmix_eq (a b : Int) : downmix a b = if 0 ≤ a + b then (a + b) / 2 else -((-(a + b)) / 2) := by
  unfold downmix tdiv
  split
  · exact Int.tdiv_eq_ediv_of_nonneg ‹_›
  · rw [← Int.tdiv_eq_ediv_of_nonneg (by omega), Int.neg_tdiv, neg_neg]

/-- Half the sum of two samples is a sample. -/
theorem toInt_tc16_downmix (a b : BitVec 16) :
    (tc 16 (downmix (sext a) (sext b))).toInt = downmix (sext a) (sext b) := by
  have := BitVec.two_mul_toInt_lt (x := a)
  have := BitVec.le_two_mul_toInt (x := a)
  have := BitVec.two_mul_toInt_lt (x := b)
  have := BitVec.le_two_mul_toInt (x := b)
  refine BitVec.toInt_ofInt_eq_self (by decide) ?_ ?_
  all_goals
    rw [downmix_eq, sext, sext]
    split <;> omega

/-! ## The statements about single commands -/

/-- Settles O40. -/
theorem rrstClearsTheAccumulator : Obligations.RrstClearsTheAccumulator := by
  refine ⟨decode_of_reserved_all (o := .rrst) rfl fun _ => rfl, fun s hf => ?_⟩
  rw [exec_rrst hf]
  rfl

/-- Settles O41. -/
theorem dmixAveragesTowardZero : Obligations.DmixAveragesTowardZero := by
  refine ⟨decode_of_reserved_none (o := .dmix) rfl fun _ => rfl, fun s a b hf => ⟨_, exec_dmix hf a b, ?_⟩,
    fun a b => ?_, fun s hf => ?_⟩
  · rw [toInt_tc16_downmix, downmix_eq, sext, sext]
  · rw [downmix, downmix, Int.add_comm]
  · simp only [exec_dmix hf]
    exact ⟨rfl, rfl, rfl, rfl, rfl, rfl, rfl⟩

/-- Settles O42, by the two outcomes of a tick. -/
theorem rsmpTicks : Obligations.RsmpTicks := by
  refine ⟨decode_of_reserved_high (o := .rsmp) (lo := 16) rfl (by decide) (by decide) fun _ => rfl,
    fun s x hf hbad => exec_rsmp_of_unconfigured hf (fun ⟨hfin, hfout, hle⟩ => ?_) x,
    fun s x hf hfin hfout hle hacc => ?_⟩
  · exact hbad.elim hfin fun h => h.elim hfout (Nat.not_lt.2 hle)
  · have hexec := exec_rsmp hf ⟨hfin, hfout, hle⟩ x
    have hlt := resampleStep_fst_lt hacc hle
    have hheld := s.setAcc_acc_toNat hlt
    refine ⟨fun hsum => ⟨_, hexec.trans ?_, ?_, hheld.trans_lt hlt⟩,
      fun hsum => ⟨_, hexec.trans ?_, ?_, hheld.trans_lt hlt⟩⟩
    · rw [resampleStep_of_le hsum]
      rfl
    · rw [hheld, resampleStep_of_le hsum]
      exact Nat.sub_add_cancel hsum
    · rw [resampleStep_of_lt hsum]
      rfl
    · rw [hheld, resampleStep_of_lt hsum]

/-! ## RESAMPLE (R89, R136) -/

theorem collectSamples_append (rs qs : List Response) :
    collectSamples (rs ++ qs) = collectSamples rs ++ collectSamples qs := List.filterMap_append

/-- An RSMP response gives the host the sample it emits, if it emits one (R78). -/
theorem collectSamples_rsmpData (emit : Bool) (x : BitVec 16) :
    collectSamples [⟨0#4, rsmpData emit x⟩] = if emit then [x] else [] := by
  cases emit with
  | false => simp [collectSamples, rsmpData]
  | true =>
    have hemit : (0#15 ++ 1#1 ++ x).getLsbD 16 = true := by rw [BitVec.getLsbD_append]; rfl
    have hdata : (0#15 ++ 1#1 ++ x).extractLsb' 0 16 = x := BitVec.extractLsb'_append_eq_right
    simp only [collectSamples, rsmpData, if_true, List.filterMap_cons, List.filterMap_nil, hemit, hdata]

/-- From any accumulator below FIN, RSMP on each sample gives out the samples the resampler keeps from there and leaves
its final accumulator in ACC. -/
theorem runsTo_rsmp (xs : List (BitVec 16)) (hf : s.fault = none) (hc : s.RateConfigured)
    (hacc : s.acc.toNat < s.fin.toNat) :
    ∃ t rs, RunsTo P (xs.map .rsmp) s t rs ∧
      collectSamples rs = (resampleFrom s.fin.toNat s.fout.toNat xs s.acc.toNat).1 ∧
      t.acc.toNat = (resampleFrom s.fin.toNat s.fout.toNat xs s.acc.toNat).2 := by
  induction xs generalizing s with
  | nil => exact ⟨s, [], .nil hf, rfl, rfl⟩
  | cons x xs ih =>
    have hone := RunsTo.one (P := P) (i := .rsmp x) hf (ruleRsmp_of_configured hc x) hf
    have hlt := resampleStep_fst_lt hacc hc.le
    have hheld := s.setAcc_acc_toNat hlt
    obtain ⟨t, rs, hrest, hsamples, hlast⟩ := ih hone.clear ⟨hc.fin, hc.fout, hc.le⟩ (hheld.trans_lt hlt)
    rw [State.replied_acc, hheld] at hsamples hlast
    refine ⟨t, _, hone.cons hrest, ?_, hlast⟩
    rw [collectSamples_append, collectSamples_rsmpData, hsamples, resampleFrom_fst_cons]
    rfl

/-- Settles O59: after RRST the accumulator is as `resample_stream` starts (R134, R136). -/
theorem resampleComputesResampleStream : Obligations.ResampleComputesResampleStream := by
  intro s xs hf hfin hfout hle
  have hrrst := RunsTo.one (P := Parameters.block) (i := .rrst) hf rfl hf
  have hpos : 0 < s.fin.toNat := Nat.pos_of_ne_zero fun h => hfin (BitVec.eq_of_toNat_eq h)
  obtain ⟨t, rs, hrest, hsamples, hstate⟩ := runsTo_rsmp xs hrrst.clear ⟨hfin, hfout, hle⟩ hpos
  have hrun := hrrst.cons hrest
  exact ⟨t, _, exec_eq_execWith_block ▸ hrun.run, hrun.replies, hrun.status, hsamples, hstate⟩

end Sys2Proof.Machine

/-! SUPPORT. Decoding the words of the pixel unit. PBEGIN reserves two separate fields, so its word is decided by the
operand of the command it would make (R75, R90). -/

namespace Sys2Proof

variable {o : Opcode} {arg : Word32}

/-- An operand sets no reserved bit exactly when it is the operand of the command made of its fields. -/
theorem and_reserved_eq_zero_iff : arg &&& o.reserved = 0#32 ↔ (o.operands arg).arg = arg := by
  refine ⟨arg_operands, fun h => ?_⟩
  have hres := arg_reserved (o.operands arg)
  rwa [Machine.Opcode.opcode_operands, h] at hres

theorem decode_pbegin (arg : Word32) :
    decode (Opcode.pbegin.code ++ arg) =
      if argField arg 28 4 = 0#4 ∧ argField arg 12 4 = 0#4
      then some (.pbegin (argField arg 16 12) (argField arg 0 12)) else none := by
  rw [decode_code_append]
  refine if_congr ((and_iff_left rfl).trans ⟨fun h => ⟨?_, ?_⟩, fun ⟨hhi, hmid⟩ => ?_⟩) rfl rfl
  · exact (zero_eq_argField h (by decide)).symm
  · exact (zero_eq_argField h (by decide)).symm
  · refine and_reserved_eq_zero_iff.2 (Eq.trans ?_ argField_all)
    exact append_eq_argField (append_eq_argField (append_eq_argField hhi.symm rfl) hmid.symm) rfl

end Sys2Proof

/-! SUPPORT. The colour conversion in integers (R141, R142): a concatenation is a sum, a truncated channel a quotient, and
the statements about `pack_color` are arithmetic on its layout. -/

namespace Sys2Proof.Machine

/-- A concatenation as a number: the upper part shifted past the lower. -/
theorem toNat_append_eq_add {m n : Nat} (x : BitVec m) (y : BitVec n) : (x ++ y).toNat = x.toNat * 2 ^ n + y.toNat := by
  rw [BitVec.toNat_append, ← Nat.shiftLeft_add_eq_or_of_lt y.isLt, Nat.shiftLeft_eq]

/-- The top five bits of a channel (R141). -/
theorem toNat_topFive (c : BitVec 8) : (c.extractLsb' 3 5).toNat = c.toNat / 8 := by
  rw [BitVec.extractLsb'_toNat, Nat.shiftRight_eq_div_pow]
  exact Nat.mod_eq_of_lt (by omega)

theorem colorField_toNat (r g b : BitVec 8) :
    (colorField r g b).toNat = r.toNat / 8 * 32 + g.toNat / 8 * 1024 + b.toNat / 8 := by
  rw [colorField, toNat_append_eq_add, toNat_append_eq_add, toNat_topFive, toNat_topFive, toNat_topFive]
  omega

theorem auxBit_intensityMode (r g b : BitVec 8) :
    (auxBit r g b .intensityMode).toNat = if 4 ≤ g.toNat % 8 then 1 else 0 := by
  have hlow : (g &&& 7#8).toNat = g.toNat % 8 := by
    rw [BitVec.toNat_and]
    exact Nat.and_two_pow_sub_one_eq_mod _ 3
  simp [auxBit, hlow, Bool.toNat, Bool.cond_decide]

theorem auxBit_defaultMode (r g b : BitVec 8) :
    (auxBit r g b .defaultMode).toNat = if (colorField r g b).toNat = 0 then 0 else 1 := by
  have hzero : colorField r g b = 0#15 ↔ (colorField r g b).toNat = 0 := BitVec.toNat_inj.symm
  by_cases h : (colorField r g b).toNat = 0 <;> simp [auxBit, hzero, h]

theorem packColor_toNat (r g b : BitVec 8) (m : AuxMode) :
    (packColor r g b m).toNat = 2 * (colorField r g b).toNat + (auxBit r g b m).toNat := by
  rw [packColor, toNat_append_eq_add, Nat.pow_one, Nat.mul_comm]

/-- Settles O44. -/
theorem packColorLayout : Obligations.PackColorLayout := by
  refine ⟨fun r g b => ⟨?_, ?_⟩, by decide⟩
  · rw [packColor_toNat, auxBit_intensityMode, colorField_toNat]
    omega
  · rw [packColor_toNat, auxBit_defaultMode, colorField_toNat]
    split <;> split <;> omega

/-- In default mode the number of a packed colour is odd exactly when it is 2 or more (R143). -/
theorem packColor_defaultMode_odd_iff (r g b : BitVec 8) :
    (packColor r g b .defaultMode).toNat % 2 = 1 ↔ 2 ≤ (packColor r g b .defaultMode).toNat := by
  rw [packColor_toNat, auxBit_defaultMode]
  split <;> omega

/-- A channel whose top five bits are `five` and whose low three bits are `low`. -/
def channel (five low : Nat) : BitVec 8 := BitVec.ofNat 8 (8 * five + low)

theorem channel_toNat {five low : Nat} (hfive : five < 32) (hlow : low < 8) :
    (channel five low).toNat = 8 * five + low := by
  rw [channel, BitVec.toNat_ofNat]
  omega

/-- The fields of a 16-bit value as channels, its bit 0 as green's bit 2, pack to the value in intensity mode (R143). -/
theorem packColor_intensityMode_surjective (v : BitVec 16) :
    packColor (channel (v.toNat / 64 % 32) 0) (channel (v.toNat / 2048) (v.toNat % 2 * 4)) (channel (v.toNat / 2 % 32) 0)
      .intensityMode = v := by
  have := v.isLt
  apply BitVec.eq_of_toNat_eq
  rw [packColor_toNat, auxBit_intensityMode, colorField_toNat, channel_toNat (by omega) (by omega),
    channel_toNat (by omega) (by omega), channel_toNat (by omega) (by omega)]
  split <;> omega

/-- Settles O45. -/
theorem packColorFixedPoints : Obligations.PackColorFixedPoints := by
  refine ⟨fun m => ?_, fun r g b => ⟨fun h => ?_, ?_⟩, fun v => ⟨_, _, _, packColor_intensityMode_surjective v⟩⟩
  · cases m <;> decide
  · have hodd := packColor_defaultMode_odd_iff r g b
    rw [h] at hodd
    exact absurd hodd (by decide)
  · rw [getLsbD_eq_true_iff, Nat.pow_zero, Nat.div_one]
    exact packColor_defaultMode_odd_iff r g b

end Sys2Proof.Machine

/-! SUPPORT. The raster registers and PIXBUF after each update of the pixel unit, as numbers and as reads (R145, R147,
R148): no product or cursor is lost to a register's width. -/

namespace Sys2Proof.Machine

variable {s : State} {w h : BitVec 12}

/-! ## Reads -/

/-- Once a raster has been begun, the active part reads as the buffer memory and nothing else has a value (R41, R55). -/
theorem State.memRead_of_begun (hp : s.pst ≠ .idle) (a : Nat) :
    s.memRead a = if a < s.pbytes.toNat then some (s.pixbuf.read a) else none := by
  by_cases ha : a < s.pbytes.toNat <;> simp [State.memRead, hp, ha]

@[simp] theorem State.replied_memRead (s : State) (d : Word32) (a : Nat) : (s.replied d).memRead a = s.memRead a := rfl

/-! ## PBEGIN's update -/

theorem toNat_mul_toNat_lt (x y : BitVec 12) : x.toNat * y.toNat < 2 ^ 12 * 2 ^ 12 :=
  Nat.mul_lt_mul'' x.isLt y.isLt

/-- The view's bytes fit PBYTES. -/
theorem State.openRaster_pbytes_toNat (s : State) (w h : BitVec 12) :
    (s.openRaster w h).pbytes.toNat = 2 * s.vieww.toNat * s.viewh.toNat := by
  have := toNat_mul_toNat_lt s.vieww s.viewh
  rw [State.openRaster_pbytes, BitVec.toNat_ofNat, Nat.mul_assoc]
  omega

/-- The raster's pixels fit PLIM. -/
theorem State.openRaster_plim_toNat (s : State) (w h : BitVec 12) :
    (s.openRaster w h).plim.toNat = w.toNat * h.toNat := by
  have := toNat_mul_toNat_lt w h
  rw [State.openRaster_plim, BitVec.toNat_ofNat]
  omega

/-- A raster just opened reads 0x00 in its whole active part. -/
theorem State.openRaster_memRead (s : State) (w h : BitVec 12) (a : Nat) :
    (s.openRaster w h).memRead a = if a < (s.openRaster w h).pbytes.toNat then some 0x00#8 else none := by
  rw [State.memRead_of_begun (by simp), State.openRaster_pixbuf, Memory.cleared_read]

/-! ## PPIX's update -/

/-- Below PLIM the cursor's next value fits PCUR. -/
theorem State.storePixel_pcur_toNat (hlt : s.pcur.toNat < s.plim.toNat) (v : BitVec 16) :
    (s.storePixel v).pcur.toNat = s.pcur.toNat + 1 := by
  rw [State.storePixel_pcur, BitVec.toNat_add, BitVec.toNat_ofNat]
  omega

theorem State.storePixel_memRead (hp : s.pst = .opened) (hwf : s.pixbuf.wf) (v : BitVec 16) (a : Nat) :
    (s.storePixel v).memRead a =
      if a < s.pbytes.toNat ∧ a = 2 * s.pcur.toNat then some (v.extractLsb' 8 8)
      else if a < s.pbytes.toNat ∧ a = 2 * s.pcur.toNat + 1 then some (v.extractLsb' 0 8)
      else s.memRead a := by
  rw [State.memRead_of_begun (by simp [hp]), State.memRead_of_begun (s := s) (by simp [hp]), State.storePixel_pixbuf,
    Memory.read_write16 hwf, State.storePixel_pbytes]
  by_cases ha : a < s.pbytes.toNat
  · simp only [ha, if_true, true_and]
    split
    · rfl
    · split <;> rfl
  · simp [ha]

/-! ## PEND's update -/

theorem State.closeRaster_memRead (hp : s.pst = .opened) (a : Nat) : s.closeRaster.memRead a = s.memRead a := by
  rw [State.memRead_of_begun (by simp), State.memRead_of_begun (s := s) (by simp [hp])]
  rfl

end Sys2Proof.Machine

/-! SUPPORT. The five commands of the pixel unit on an unlatched block (R144, R145, R147 to R149): the outcome of each rule
under the checks it makes, and the statements about them. -/

namespace Sys2Proof.Machine

variable {i : Instr} {s : State} {e : ErrorCode} {w h : BitVec 12} {addr : BitVec 26}

/-- An unlatched block answers a rule that raises with the error's status, and records it with the command (R196). -/
theorem exec_of_error (hf : s.fault = none) (h : ruleOf Parameters.block i s = .error e) :
    exec i s = .next (s.raised e (e.code.setWidth 4) i.opcode.code i.arg) := by
  rw [exec_of_clear _ hf, h, State.finish, State.fail_of_clear hf, op_encode, arg_encode]

/-! ## PCONV (R144) -/

theorem exec_pconv (hf : s.fault = none) (r g b : BitVec 8) :
    exec (.pconv r g b) s = .next (s.replied (0#16 ++ packColor r g b s.auxm)) := by
  rw [exec_of_ok (i := .pconv r g b) hf rfl, BitVec.setWidth_eq_append (by decide)]
  rfl

/-- Settles O46. -/
theorem pconvConverts : Obligations.PconvConverts :=
  ⟨decode_of_reserved_high (o := .pconv) (lo := 24) rfl (by decide) (by decide) fun _ => rfl,
    fun _ r g b hf => exec_pconv hf r g b⟩

/-! ## PBEGIN (R145) -/

theorem rulePbegin_of_opened (hp : s.pst = .opened) : rulePbegin w h s = .error .seq := if_pos hp

theorem rulePbegin_of_unconfigured (hp : s.pst ≠ .opened) (hv : ¬ s.ViewConfigured) :
    rulePbegin w h s = .error .param := by
  rw [rulePbegin, if_neg hp, if_pos (by_contra fun hc => hv (not_or.1 hc))]

/-- With the first two checks passed the raster's size decides. -/
theorem rulePbegin_of_configured (hp : s.pst ≠ .opened) (hv : s.ViewConfigured) :
    rulePbegin w h s =
      if w ≠ s.vieww then .error .format
      else if s.viewh.toNat < h.toNat then .error .param
      else .ok (s.openRaster w h, (s.openRaster w h).pbytes.setWidth 32) := by
  rw [rulePbegin, if_neg hp, if_neg (not_or.2 hv)]

theorem rulePbegin_of_wrong_width (hp : s.pst ≠ .opened) (hv : s.ViewConfigured) (hw : w ≠ s.vieww) :
    rulePbegin w h s = .error .format := by
  rw [rulePbegin_of_configured hp hv, if_pos hw]

theorem rulePbegin_of_too_high (hp : s.pst ≠ .opened) (hv : s.ViewConfigured) (hw : w = s.vieww)
    (hh : s.viewh.toNat < h.toNat) : rulePbegin w h s = .error .param := by
  rw [rulePbegin_of_configured hp hv, if_neg (not_not.2 hw), if_pos hh]

theorem rulePbegin_of_fits (hp : s.pst ≠ .opened) (hv : s.ViewConfigured) (hw : w = s.vieww)
    (hh : h.toNat ≤ s.viewh.toNat) :
    rulePbegin w h s = .ok (s.openRaster w h, (s.openRaster w h).pbytes.setWidth 32) := by
  rw [rulePbegin_of_configured hp hv, if_neg (not_not.2 hw), if_neg (Nat.not_lt.2 hh)]

theorem exec_pbegin (hf : s.fault = none) (hp : s.pst ≠ .opened) (hv : s.ViewConfigured) (hw : w = s.vieww)
    (hh : h.toNat ≤ s.viewh.toNat) :
    exec (.pbegin w h) s =
      .next ((s.openRaster w h).replied (0#6 ++ (s.openRaster w h).pbytes)) := by
  rw [exec_of_ok (i := .pbegin w h) hf (rulePbegin_of_fits hp hv hw hh), BitVec.setWidth_eq_append (by decide)]
  rfl

/-- Settles O47, by the outcome of each check in its order. -/
theorem pbeginOpensARaster : Obligations.PbeginOpensARaster := by
  refine ⟨decode_pbegin, fun s w h hf => ⟨fun hp => ?_, fun hp hv => ?_, fun hp hv hw => ?_, fun hp hv hw hh => ?_,
    fun hp hv hw hh => ?_⟩⟩
  · exact exec_of_error hf (rulePbegin_of_opened hp)
  · exact exec_of_error hf (rulePbegin_of_unconfigured hp hv)
  · exact exec_of_error hf (rulePbegin_of_wrong_width hp hv hw)
  · exact exec_of_error hf (rulePbegin_of_too_high hp hv hw hh)
  · exact ⟨(s.openRaster w h).pbytes, (s.openRaster w h).plim, (s.openRaster w h).pixbuf, _, exec_pbegin hf hp hv hw hh,
      rfl, s.openRaster_pbytes_toNat w h, s.openRaster_plim_toNat w h, Memory.cleared_wf, s.openRaster_memRead w h⟩

/-! ## PPIX (R147) -/

theorem rulePpix_of_refused (r g b : BitVec 8) (hbad : s.pst ≠ .opened ∨ s.plim.toNat ≤ s.pcur.toNat) :
    rulePpix r g b s = .error .seq := by
  rw [rulePpix, ← ite_or, if_pos hbad]

theorem rulePpix_of_room (r g b : BitVec 8) (hp : s.pst = .opened) (hlt : s.pcur.toNat < s.plim.toNat) :
    rulePpix r g b s = .ok (s.storePixel (packColor r g b s.auxm), (packColor r g b s.auxm).setWidth 32) := by
  rw [rulePpix, if_neg (not_not.2 hp), if_neg (Nat.not_le.2 hlt)]

theorem exec_ppix (r g b : BitVec 8) (hf : s.fault = none) (hp : s.pst = .opened) (hlt : s.pcur.toNat < s.plim.toNat) :
    exec (.ppix r g b) s =
      .next ((s.storePixel (packColor r g b s.auxm)).replied (0#16 ++ packColor r g b s.auxm)) := by
  rw [exec_of_ok (i := .ppix r g b) hf (rulePpix_of_room r g b hp hlt), BitVec.setWidth_eq_append (by decide)]
  rfl

/-- Settles O48. -/
theorem ppixStoresAPixel : Obligations.PpixStoresAPixel := by
  refine ⟨decode_of_reserved_high (o := .ppix) (lo := 24) rfl (by decide) (by decide) fun _ => rfl,
    fun s r g b hf => ⟨fun hbad => exec_of_error hf (rulePpix_of_refused r g b hbad), fun hp hlt hwf => ?_⟩⟩
  exact ⟨_, _, _, exec_ppix r g b hf hp hlt, rfl, State.storePixel_pcur_toNat hlt (packColor r g b s.auxm),
    Memory.write16_wf hwf _ _, State.storePixel_memRead hp hwf _⟩

/-! ## PEND (R148) -/

theorem rulePend_of_refused (hbad : s.pst ≠ .opened ∨ s.pcur ≠ s.plim) : rulePend s = .error .seq := by
  rw [rulePend, ← ite_or, if_pos hbad]

theorem rulePend_of_complete (hp : s.pst = .opened) (hall : s.pcur = s.plim) :
    rulePend s = .ok (s.closeRaster, s.pcur.setWidth 32) := by
  rw [rulePend, if_neg (not_not.2 hp), if_neg (not_not.2 hall)]

theorem exec_pend (hf : s.fault = none) (hp : s.pst = .opened) (hall : s.pcur = s.plim) :
    exec .pend s = .next (s.closeRaster.replied (0#7 ++ s.pcur)) := by
  rw [exec_of_ok (i := .pend) hf (rulePend_of_complete hp hall), BitVec.setWidth_eq_append (by decide)]
  rfl

/-- Settles O49. -/
theorem pendClosesTheRaster : Obligations.PendClosesTheRaster := by
  refine ⟨decode_of_reserved_all (o := .pend) rfl fun _ => rfl,
    fun s hf => ⟨fun hbad => exec_of_error hf (rulePend_of_refused hbad), fun hp hall => ?_⟩⟩
  exact ⟨_, exec_pend hf hp hall, rfl, State.closeRaster_memRead hp⟩

/-! ## PRD (R149) -/

theorem ruleOf_prd_of_outside (hp : s.pst ≠ .idle) (ha : s.pbytes.toNat ≤ addr.toNat) :
    ruleOf Parameters.block (.prd addr) s = .error .param :=
  (if_neg hp).trans (if_pos ha)

theorem ruleOf_prd_of_active (hp : s.pst ≠ .idle) (ha : addr.toNat < s.pbytes.toNat) :
    ruleOf Parameters.block (.prd addr) s = .ok (s, (s.pixbuf.read addr.toNat).setWidth 32) :=
  (if_neg hp).trans (if_neg (Nat.not_le.2 ha))

theorem exec_prd_of_active (hf : s.fault = none) (hp : s.pst ≠ .idle) (ha : addr.toNat < s.pbytes.toNat) :
    exec (.prd addr) s = .next (s.replied (0#24 ++ s.pixbuf.read addr.toNat)) := by
  rw [exec_of_ok (i := .prd addr) hf (ruleOf_prd_of_active hp ha), BitVec.setWidth_eq_append (by decide)]
  rfl

/-- Settles O50. -/
theorem prdReadsOneByte : Obligations.PrdReadsOneByte := by
  refine ⟨decode_of_reserved_high (o := .prd) (lo := 26) rfl (by decide) (by decide) fun _ => rfl,
    fun s addr hf => ⟨fun hp => exec_prd_of_idle hf hp addr, fun hp ha => ?_, fun hp ha => ?_⟩⟩
  · exact exec_of_error hf (ruleOf_prd_of_outside hp ha)
  · exact ⟨_, State.memRead_of_active hp ha, exec_prd_of_active hf hp ha⟩

end Sys2Proof.Machine

/-! SUPPORT. PACKRASTER fills PIXBUF with `pack_raster` (R89, R146, R150): the buffer holds the bytes of the pixels drawn so
far and 0x00 beyond them, PPIX keeps this with one pixel more, and after PEND it is the function's value. -/

namespace Sys2Proof.Machine

variable {P : Parameters} {o s : State} {drawn ps : List Rgb} {auxm : AuxMode}

/-! ## The bytes of `pack_raster` -/

/-- Two bytes after a list, as reads with a default. -/
theorem getD_append_pair (l : List Byte) (x y d : Byte) (a : Nat) :
    (l ++ [x, y]).getD a d = if a = l.length then x else if a = l.length + 1 then y else l.getD a d := by
  rcases Nat.lt_or_ge a l.length with ha | ha
  · rw [List.getD_append _ _ _ _ ha, if_neg (by omega), if_neg (by omega)]
  · obtain ⟨j, rfl⟩ := Nat.exists_eq_add_of_le ha
    rw [List.getD_append_right _ _ _ _ ha, Nat.add_sub_cancel_left]
    match j with
    | 0 | 1 | j + 2 => simp

theorem getElem?_append_replicate (l : List Byte) (k : Nat) (x : Byte) (a : Nat) :
    (l ++ List.replicate k x)[a]? = if a < l.length + k then some (l.getD a x) else none := by
  rcases Nat.lt_or_ge a l.length with ha | ha
  · rw [List.getElem?_append_left ha, if_pos (by omega), List.getD_eq_getElem _ _ ha, List.getElem?_eq_getElem ha]
  · rw [List.getElem?_append_right ha, List.getD_eq_default _ _ ha, List.getElem?_replicate]
    exact if_congr (by omega) rfl rfl

/-- Each pixel has two bytes. -/
theorem flatMap_colorBytes_length (auxm : AuxMode) (ps : List Rgb) :
    (ps.flatMap (colorBytes auxm)).length = 2 * ps.length := by
  induction ps with
  | nil => rfl
  | cons p ps ih =>
    rw [List.flatMap_cons, List.length_append, ih, List.length_cons]
    exact Nat.add_comm 2 _

/-- A raster's bytes fill the view, when its pixels fit it. -/
theorem packRaster_length {vw vh : Nat} (hfit : ps.length ≤ vw * vh) :
    (packRaster ps vw vh auxm).length = 2 * vw * vh := by
  rw [packRaster, List.length_append, flatMap_colorBytes_length, List.length_replicate, Nat.mul_assoc]
  omega

theorem packRaster_getElem? {vw vh : Nat} (hfit : ps.length ≤ vw * vh) (a : Nat) :
    (packRaster ps vw vh auxm)[a]? =
      if a < 2 * vw * vh then some ((ps.flatMap (colorBytes auxm)).getD a 0x00#8) else none := by
  rw [← packRaster_length (auxm := auxm) hfit, packRaster, getElem?_append_replicate, List.length_append,
    List.length_replicate]

/-! ## A raster being drawn -/

/-- `Drawn o ps s`: since the raster was opened in the state `o`, the pixels `ps` have been drawn and nothing else has
happened to it. -/
structure State.Drawn (o : State) (ps : List Rgb) (s : State) : Prop where
  clear : s.fault = none
  opened : s.pst = .opened
  auxm : s.auxm = o.auxm
  plim : s.plim = o.plim
  pbytes : s.pbytes = o.pbytes
  cursor : s.pcur.toNat = ps.length
  wf : s.pixbuf.wf
  bytes : ∀ a, s.pixbuf.read a = (ps.flatMap (colorBytes o.auxm)).getD a 0x00#8

/-- PBEGIN leaves a raster with nothing drawn. -/
theorem State.drawn_openRaster (hf : s.fault = none) (w h : BitVec 12) (d : Word32) :
    State.Drawn (s.openRaster w h) [] ((s.openRaster w h).replied d) where
  clear := hf
  opened := rfl
  auxm := rfl
  plim := rfl
  pbytes := rfl
  cursor := rfl
  wf := Memory.cleared_wf
  bytes _ := rfl

theorem State.Drawn.room (hd : State.Drawn o drawn s) (hroom : drawn.length < o.plim.toNat) :
    s.pcur.toNat < s.plim.toNat := by
  rwa [hd.cursor, hd.plim]

/-- PPIX draws one pixel more. -/
theorem State.Drawn.storePixel (hd : State.Drawn o drawn s) (hroom : drawn.length < o.plim.toNat) (p : Rgb) (d : Word32) :
    State.Drawn o (drawn ++ [p]) ((s.storePixel (packColor p.1 p.2.1 p.2.2 s.auxm)).replied d) where
  clear := hd.clear
  opened := hd.opened
  auxm := hd.auxm
  plim := hd.plim
  pbytes := hd.pbytes
  cursor := by
    rw [List.length_append, ← hd.cursor]
    exact State.storePixel_pcur_toNat (hd.room hroom) (packColor p.1 p.2.1 p.2.2 s.auxm)
  wf := Memory.write16_wf hd.wf _ _
  bytes a := by
    have hread := Memory.read_write16 hd.wf (2 * s.pcur.toNat) (packColor p.1 p.2.1 p.2.2 s.auxm) a
    rw [hd.bytes, hd.cursor, ← flatMap_colorBytes_length o.auxm, hd.auxm] at hread
    rw [List.flatMap_append, List.flatMap_singleton, colorBytes, getD_append_pair, ← hread,
      flatMap_colorBytes_length, ← hd.cursor, ← hd.auxm]
    rfl

/-- PPIX on each of the pixels draws them all, when they have room. -/
theorem runsTo_ppix (ps : List Rgb) (hd : State.Drawn o drawn s) (hroom : drawn.length + ps.length ≤ o.plim.toNat) :
    ∃ t rs, RunsTo P (ps.map fun p => .ppix p.1 p.2.1 p.2.2) s t rs ∧ State.Drawn o (drawn ++ ps) t := by
  induction ps generalizing drawn s with
  | nil => exact ⟨s, [], .nil hd.clear, by rwa [List.append_nil]⟩
  | cons p ps ih =>
    rw [List.length_cons] at hroom
    have hlt : drawn.length < o.plim.toNat := by omega
    have hstep := hd.storePixel hlt p ((packColor p.1 p.2.1 p.2.2 s.auxm).setWidth 32)
    have hone := RunsTo.one (P := P) (i := .ppix p.1 p.2.1 p.2.2) hd.clear
      (rulePpix_of_room _ _ _ hd.opened (hd.room hlt)) hd.clear
    obtain ⟨t, rs, hrest, hdrawn⟩ := ih hstep (by rw [List.length_append, List.length_singleton]; omega)
    exact ⟨t, _, hone.cons hrest, by rwa [List.append_assoc] at hdrawn⟩

/-- PBEGIN and PPIX on each pixel draw the whole raster. -/
theorem runsTo_drawn (h : BitVec 12) (hf : s.fault = none) (hp : s.pst ≠ .opened) (hv : s.ViewConfigured)
    (hh : h.toNat ≤ s.viewh.toNat) (hps : ps.length = s.vieww.toNat * h.toNat) :
    ∃ t rs, RunsTo P (.pbegin s.vieww h :: ps.map fun p => .ppix p.1 p.2.1 p.2.2) s t rs ∧
      State.Drawn (s.openRaster s.vieww h) ps t := by
  have hbegin := RunsTo.one (P := P) (i := .pbegin s.vieww h) hf (rulePbegin_of_fits hp hv rfl hh) hf
  obtain ⟨t, rs, hrun, hdrawn⟩ := runsTo_ppix (P := P) ps (State.drawn_openRaster hf s.vieww h _)
    (by rw [State.openRaster_plim_toNat, List.length_nil, hps, Nat.zero_add])
  exact ⟨t, _, hbegin.cons hrun, hdrawn⟩

/-- Settles O60: PEND closes the drawn raster, whose buffer reads as `pack_raster` byte for byte. -/
theorem packrasterFillsTheBuffer : Obligations.PackrasterFillsTheBuffer := by
  intro s h ps hf hp hv hh hps
  have hfit : ps.length ≤ s.vieww.toNat * s.viewh.toNat := hps ▸ Nat.mul_le_mul_left _ hh
  obtain ⟨t, rs, hrun, hd⟩ := runsTo_drawn (P := Parameters.block) h hf hp hv hh hps
  have hall : t.pcur = t.plim := by
    apply BitVec.eq_of_toNat_eq
    rw [hd.cursor, hd.plim, State.openRaster_plim_toNat, hps]
  have hbytes : t.pbytes.toNat = 2 * s.vieww.toNat * s.viewh.toNat := by
    rw [hd.pbytes, State.openRaster_pbytes_toNat]
  have hpend := hrun.append (.one (i := .pend) hd.clear (rulePend_of_complete hd.opened hall) hd.clear)
  refine ⟨_, _, exec_eq_execWith_block ▸ hpend.run, hpend.replies, hpend.status, rfl, ?_, fun a => ?_⟩
  · rw [packRaster_length hfit]
    exact hbytes
  · rw [State.replied_memRead, State.closeRaster_memRead hd.opened, State.memRead_of_begun (by simp [hd.opened]), hbytes,
      hd.bytes, State.openRaster_auxm, packRaster_getElem? hfit]

end Sys2Proof.Machine

/-! SUPPORT. The frame timing unit in integers (R161, R162, R164, R165): the two outcomes of the lookup, and the bounds
that let a response hold the answers exactly (R168, R171). -/

namespace Sys2Proof.Machine

variable {T : TimingTables} {rc k c : Nat}

/-! ## The frame_voice_size (R161, R162) -/

theorem fvs_of_calibrated (h : T.cal rc k = some c) : fvs T rc k = c := by rw [fvs, h]

theorem fvs_of_uncalibrated (h : T.cal rc k = none) : fvs T rc k = T.byterate rc * T.fpsDen k / T.fpsNum k := by
  rw [fvs, h, fvsFallback]

/-- The lookup in the form in which legality speaks of it (R163, R171). -/
theorem fvs_eq_getD (T : TimingTables) (rc k : Nat) :
    fvs T rc k = (T.cal rc k).getD (T.byterate rc * T.fpsDen k / T.fpsNum k) := by
  cases h : T.cal rc k with
  | none => exact fvs_of_uncalibrated h
  | some c => exact fvs_of_calibrated h

/-- Legal tables keep the answer of FVS within 24 bits (R171). -/
theorem fvs_lt_of_legal (hT : T.Legal) (hrc : rc < T.nrc) (hk : k < T.nfps) : fvs T rc k < 2 ^ 24 :=
  fvs_eq_getD T rc k ▸ hT.value_lt rc hrc k hk

/-- A number of 24 bits fills a response from bit 0 (R167). -/
theorem ofNat32_eq_append_of_lt {n : Nat} (h : n < 2 ^ 24) : BitVec.ofNat 32 n = 0#8 ++ BitVec.ofNat 24 n := by
  rw [← BitVec.setWidth_ofNat_of_le_of_lt (by decide) h]
  exact BitVec.setWidth_eq_append (by decide)

theorem toNat_ofNat_of_lt {w n : Nat} (h : n < 2 ^ w) : (BitVec.ofNat w n).toNat = n :=
  (BitVec.toNat_ofNat n w).trans (Nat.mod_eq_of_lt h)

/-! ## The frame_size (R164, R165) -/

theorem le_roundup1024 (x : Nat) : x ≤ roundup1024 x := by
  unfold roundup1024
  omega

theorem roundup1024_le (x : Nat) : roundup1024 x ≤ x + 1023 := Nat.mul_div_le _ _

theorem dvd_roundup1024 (x : Nat) : 1024 ∣ roundup1024 x := Nat.dvd_mul_right _ _

/-- A multiple of 1024 at or above `x` is at or above `roundup1024 x`. -/
theorem roundup1024_le_of_dvd {x m : Nat} (hm : 1024 ∣ m) (hx : x ≤ m) : roundup1024 x ≤ m := by
  obtain ⟨q, rfl⟩ := hm
  refine Nat.mul_le_mul_left 1024 (Nat.le_of_lt_succ (Nat.div_lt_of_lt_mul ?_))
  omega

theorem frameSize_pos (ppb v : Nat) : 0 < frameSize ppb v :=
  Nat.lt_of_lt_of_le (by omega) (le_roundup1024 (16 + ppb + 2 + v))

/-- Settles O53. -/
theorem frameSizeRoundsUp : Obligations.FrameSizeRoundsUp :=
  ⟨fun x => ⟨le_roundup1024 x, dvd_roundup1024 x, fun _ => roundup1024_le_of_dvd⟩,
    fun ppb v => ⟨rfl, frameSize_pos ppb v, dvd_roundup1024 _⟩, rfl, rfl, rfl, rfl⟩

/-- The frame size of any view and any frame_voice_size fits a response (R168). -/
theorem frameSize_lt (w h : BitVec 12) (v : BitVec 24) : frameSize (2 * w.toNat * h.toNat) v.toNat < 2 ^ 32 := by
  have hround := roundup1024_le (16 + 2 * w.toNat * h.toNat + 2 + v.toNat)
  have hpixels := toNat_mul_toNat_lt w h
  have hv := v.isLt
  rw [Nat.mul_assoc] at hround ⊢
  unfold frameSize
  omega

end Sys2Proof.Machine

/-! SUPPORT. The four commands of the frame timing unit on an unlatched block (R167 to R170): the outcome of each rule
under the checks it makes, and the statements about them. -/

namespace Sys2Proof.Machine

variable {T : TimingTables} {s : State} {rc k : BitVec 8} {sel : BitVec 1}

/-! ## FVS (R167) -/

theorem ruleFvs_of_outside (hout : T.nrc ≤ rc.toNat ∨ T.nfps ≤ k.toNat) : ruleFvs T rc k s = .error .param :=
  if_pos hout

theorem ruleFvs_of_inside (hrc : rc.toNat < T.nrc) (hk : k.toNat < T.nfps) :
    ruleFvs T rc k s = .ok (s, BitVec.ofNat 32 (fvs T rc.toNat k.toNat)) :=
  if_neg (not_or.2 ⟨Nat.not_le.2 hrc, Nat.not_le.2 hk⟩)

/-- On the block's own tables the answer is a 24-bit count with nothing above it (R171). -/
theorem ruleFvs_timing_of_inside (hrc : rc.toNat < timing.nrc) (hk : k.toNat < timing.nfps) :
    ruleFvs timing rc k s = .ok (s, 0#8 ++ BitVec.ofNat 24 (fvs timing rc.toNat k.toNat)) := by
  rw [ruleFvs_of_inside hrc hk, ofNat32_eq_append_of_lt (fvs_lt_of_legal Config.timing.legal hrc hk)]

theorem exec_fvs (hf : s.fault = none) (hrc : rc.toNat < timing.nrc) (hk : k.toNat < timing.nfps) :
    exec (.fvs rc k) s = .next (s.replied (BitVec.ofNat 32 (fvs timing rc.toNat k.toNat))) :=
  exec_of_ok hf (ruleFvs_of_inside hrc hk)

/-- Settles O51, by the two outcomes of the lookup. -/
theorem fvsLooksUpOrFallsBack : Obligations.FvsLooksUpOrFallsBack := by
  refine ⟨decode_of_reserved_high (o := .fvs) (lo := 16) rfl (by decide) (by decide) fun _ => rfl,
    fun T s rc k => ⟨ruleFvs_of_outside, fun hrc hk => ⟨fun c hc => ?_, fun hc => ?_⟩⟩,
    fun s rc k hf => ⟨fun hout => exec_of_error hf (ruleFvs_of_outside hout), fun hrc hk => ?_⟩⟩
  · rw [ruleFvs_of_inside hrc hk, fvs_of_calibrated hc]
  · rw [ruleFvs_of_inside hrc hk, fvs_of_uncalibrated hc]
  · have hv := toNat_ofNat_of_lt (fvs_lt_of_legal Config.timing.legal hrc hk)
    have hrule := ruleFvs_timing_of_inside (s := s) hrc hk
    exact ⟨_, exec_of_ok hf hrule, hrule, fun c hc => hv.trans (fvs_of_calibrated hc),
      fun hc => hv.trans (fvs_of_uncalibrated hc)⟩

/-- FVS answers a fixed point that legality gives the block's tables (R163): its
class and its frame rate are below 256, so each is an operand. -/
theorem exec_fvs_of_point (hf : s.fault = none) {fps n : Nat}
    (hpoint : ∃ rc < timing.nrc, ∃ k < timing.nfps, timing.fpsNum k = fps * timing.fpsDen k ∧
      (timing.cal rc k).getD (timing.byterate rc * timing.fpsDen k / timing.fpsNum k) = n) :
    ∃ rc k : BitVec 8, rc.toNat < timing.nrc ∧ k.toNat < timing.nfps ∧
      timing.fpsNum k.toNat = fps * timing.fpsDen k.toNat ∧
      exec (.fvs rc k) s = .next (s.replied (BitVec.ofNat 32 n)) := by
  obtain ⟨rc, hrc, k, hk, hfps, rfl⟩ := hpoint
  have hrc8 : (BitVec.ofNat 8 rc).toNat = rc := toNat_ofNat_of_lt (hrc.trans_le Config.timing.legal.nrc_range.2)
  have hk8 : (BitVec.ofNat 8 k).toNat = k := toNat_ofNat_of_lt (hk.trans_le Config.timing.legal.nfps_range.2)
  refine ⟨BitVec.ofNat 8 rc, BitVec.ofNat 8 k, hrc8.symm ▸ hrc, hk8.symm ▸ hk, hk8.symm ▸ hfps, ?_⟩
  rw [exec_fvs hf (hrc8.symm ▸ hrc) (hk8.symm ▸ hk), hrc8, hk8, fvs_eq_getD]

/-- Settles O52. -/
theorem fvsFixedPoints : Obligations.FvsFixedPoints := fun _ hf =>
  ⟨exec_fvs_of_point hf Config.timing.legal.point_520, exec_fvs_of_point hf Config.timing.legal.point_4266⟩

/-! ## FSZ (R168) -/

theorem ruleFsz_of_unconfigured (hv : ¬ s.ViewConfigured) (v : BitVec 24) : ruleFsz v s = .error .param :=
  if_pos (by_contra fun hc => hv (not_or.1 hc))

theorem ruleFsz_of_configured (hv : s.ViewConfigured) (v : BitVec 24) :
    ruleFsz v s = .ok (s, BitVec.ofNat 32 (frameSize s.pixelPayloadBytes v.toNat)) :=
  if_neg (not_or.2 hv)

/-- Settles O54. -/
theorem fszAnswersTheFrameSize : Obligations.FszAnswersTheFrameSize :=
  ⟨decode_of_reserved_high (o := .fsz) (lo := 24) rfl (by decide) (by decide) fun _ => rfl,
    fun s v hf => ⟨fun hv => exec_of_error hf (ruleFsz_of_unconfigured hv v),
      fun hv => ⟨_, exec_of_ok hf (ruleFsz_of_configured hv v), toNat_ofNat_of_lt (frameSize_lt s.vieww s.viewh v)⟩⟩⟩

/-! ## FRC (R169) -/

theorem ruleFrc_of_outside (hrc : T.nrc ≤ rc.toNat) : ruleFrc T rc s = .error .param := if_pos hrc

theorem ruleFrc_of_inside (hrc : rc.toNat < T.nrc) : ruleFrc T rc s = .ok (s, T.ratecode rc.toNat) :=
  if_neg (Nat.not_le.2 hrc)

/-- Settles O55. -/
theorem frcAnswersTheRateCode : Obligations.FrcAnswersTheRateCode :=
  ⟨decode_of_reserved_high (o := .frc) (lo := 8) rfl (by decide) (by decide) fun _ => rfl,
    fun _ _ _ => ⟨ruleFrc_of_outside, ruleFrc_of_inside⟩,
    fun _ _ hf => ⟨fun hrc => exec_of_error hf (ruleFrc_of_outside hrc),
      fun hrc => exec_of_ok hf (ruleFrc_of_inside hrc)⟩⟩

/-! ## FDUR (R170) -/

theorem ruleFdur_of_outside (hk : T.nfps ≤ k.toNat) : ruleFdur T sel k s = .error .param := if_pos hk

theorem ruleFdur_of_inside (hk : k.toNat < T.nfps) (sel : BitVec 1) :
    ruleFdur T sel k s = .ok (s, if sel = 0#1 then T.fdurA k.toNat else T.fdurB k.toNat) :=
  if_neg (Nat.not_le.2 hk)

theorem exec_fdur (hf : s.fault = none) (hk : k.toNat < timing.nfps) (sel : BitVec 1) :
    exec (.fdur sel k) s =
      .next (s.replied (if sel = 0#1 then timing.fdurA k.toNat else timing.fdurB k.toNat)) :=
  exec_of_ok hf (ruleFdur_of_inside hk sel)

/-- Settles O56, by the two selectors. -/
theorem fdurAnswersADurationField : Obligations.FdurAnswersADurationField :=
  ⟨decode_of_reserved_high (o := .fdur) (lo := 9) rfl (by decide) (by decide) fun _ => rfl,
    fun _ _ _ => ⟨fun _ => ruleFdur_of_outside, fun hk => ⟨ruleFdur_of_inside hk 0#1, ruleFdur_of_inside hk 1#1⟩⟩,
    fun _ _ hf => ⟨fun _ hk => exec_of_error hf (ruleFdur_of_outside hk),
      fun hk => ⟨exec_fdur hf hk 0#1, exec_fdur hf hk 1#1⟩⟩⟩

end Sys2Proof.Machine

/-! SUPPORT. The three commands a set latch lets through, NOP, CRD and SRST (R195, R197): their rule runs in every state,
and a word of their opcode that does not decode is E_ILLEGAL in every state. -/

namespace Sys2Proof.Machine

variable {i : Instr} {o : Opcode} {s u : State} {d : Word32} {e : ErrorCode}

/-- The opcodes of the commands of `RunsLatched`. -/
abbrev latchedOpcodes : List Opcode := [.nop, .crd, .srst]

theorem opcode_mem_latchedOpcodes_iff (i : Instr) : i.opcode ∈ latchedOpcodes ↔ RunsLatched i := by
  cases i <;> simp [Instr.opcode, RunsLatched]

/-- The latch test passes these opcodes in every state. -/
theorem State.refusesOp_of_latchedOpcode (s : State) (ho : o ∈ latchedOpcodes) : s.refusesOp o.code = false := by
  simp only [List.mem_cons, List.not_mem_nil, or_false] at ho
  rcases ho with rfl | rfl | rfl <;> simp [State.refusesOp, Opcode.code]

/-- Any block, latched or not, runs the rule of these commands. -/
theorem exec_of_runsLatched (hi : RunsLatched i) :
    exec i s = .next (s.finish (encode i) (ruleOf Parameters.block i s)) := by
  rw [exec_eq, perform_of_accepted i _ (s.refusesOp_of_latchedOpcode ((opcode_mem_latchedOpcodes_iff i).2 hi))]

theorem exec_of_runsLatched_of_ok (hi : RunsLatched i) (h : ruleOf Parameters.block i s = .ok (u, d)) :
    exec i s = .next (u.replied d) := by
  rw [exec_of_runsLatched hi, h]
  rfl

theorem exec_of_runsLatched_of_error (hi : RunsLatched i) (h : ruleOf Parameters.block i s = .error e) :
    exec i s = .next (s.fail e (encode i)) := by
  rw [exec_of_runsLatched hi, h, State.finish]

/-- An error on a latched block is a response and no other effect (R196). -/
theorem State.fail_of_set (hf : s.fault ≠ none) (e : ErrorCode) (w : CommandWord) :
    s.fail e w = s.answer (errorResponse e) := by
  obtain ⟨e', he⟩ := Option.ne_none_iff_exists'.1 hf
  rw [State.fail, s.latch_of_set e w he]

/-- A word of these opcodes that does not decode is answered E_ILLEGAL in every state, and only the latch can change. -/
theorem accept_of_undecoded (ho : o ∈ latchedOpcodes) {arg : Word32} (hd : decode (o.code ++ arg) = none) (s : State) :
    ∃ t, accept (o.code ++ arg) s = .next t ∧ t.replies = s.replies ++ [⟨1#4, 0#32⟩] ∧ s.SameButLatch t := by
  refine ⟨s.fail .illegal (o.code ++ arg), ?_, s.fail_replies .illegal _, s.fail_sameButLatch _ _⟩
  simp [accept, op_append, s.refusesOp_of_latchedOpcode ho, hd]

/-! ## NOP (R176) -/

theorem decode_nop (arg : Word32) : decode (0x00#8 ++ arg) = if arg = 0#32 then some .nop else none :=
  decode_of_reserved_all (o := .nop) rfl (fun _ => rfl) arg

theorem exec_nop (s : State) : exec .nop s = .next (s.replied 0#32) := exec_of_runsLatched_of_ok (.inl rfl) rfl

/-- Settles O23. -/
theorem nopAnswersZero : Obligations.NopAnswersZero :=
  ⟨decode_nop, exec_nop,
    fun s arg harg => accept_of_undecoded (o := .nop) (by decide) ((decode_nop arg).trans (if_neg harg)) s,
    decode_of_encode_eq (by decide) (by decide)⟩

/-! ## SRST (R179) -/

theorem decode_srst (arg : Word32) : decode (0x03#8 ++ arg) = if arg = 0#32 then some .srst else none :=
  decode_of_reserved_all (o := .srst) rfl (fun _ => rfl) arg

/-- Settles O26. -/
theorem srstResetsLikeHardware : Obligations.SrstResetsLikeHardware := by
  refine ⟨decode_srst, fun s => ⟨exec_srst s, rfl⟩,
    fun s arg harg => accept_of_undecoded (o := .srst) (by decide) ((decode_srst arg).trans (if_neg harg)) s,
    fun s t i h hset hclear => ?_⟩
  rcases exec_latch_of_set hset h with ⟨hfault, -, -⟩ | ⟨hi, -⟩
  · exact absurd (hfault.symm.trans hclear) hset
  · exact hi

end Sys2Proof.Machine

/-! SUPPORT. CRD (R178): every register in its layout, whether the block is latched or not, and the two outcomes of a
reserved index. -/

namespace Sys2Proof.Machine

open BitVec

variable {s : State} {idx : BitVec 8} {d : Word32}

theorem decode_crd (arg : Word32) :
    decode (0x02#8 ++ arg) =
      if arg.extractLsb' 0 24 = 0#24 ∧ Instr.crdIndexOk (arg.extractLsb' 24 8)
      then some (.crd (arg.extractLsb' 24 8)) else none := by
  refine (decode_code_append .crd arg).trans (if_congr (and_congr ⟨fun h => ?_, fun h => ?_⟩ ?_) rfl rfl)
  · exact (zero_eq_argField h (by decide)).symm
  · exact and_reserved_eq_zero_iff.2 ((append_eq_argField rfl h.symm).trans argField_all)
  · exact (crdIndexOk_iff _).symm

theorem ruleCrd_index (r : Reg) (s : State) : ruleCrd r.index s = .ok (s, readReg r s) := by
  rw [ruleCrd, Reg.ofIndex_index]

theorem ruleCrd_of_reserved (h : ¬ Instr.crdIndexOk idx) (s : State) : ruleCrd idx s = .error .illegal := by
  rw [crdIndexOk_iff, Option.not_isSome_iff_eq_none] at h
  rw [ruleCrd, h]

/-- CRD answers a register's layout in every state. -/
theorem exec_crd (r : Reg) (h : readReg r s = d) : exec (.crd r.index) s = .next (s.replied d) :=
  h ▸ exec_of_runsLatched_of_ok (.inr (.inl ⟨_, rfl⟩)) (ruleCrd_index r s)

theorem exec_crd_of_reserved (h : ¬ Instr.crdIndexOk idx) :
    exec (.crd idx) s = .next (s.fail .illegal (encode (.crd idx))) :=
  exec_of_runsLatched_of_error (.inr (.inl ⟨_, rfl⟩)) (ruleCrd_of_reserved h s)

/-! ## The layouts that are no plain zero-extension (R40) -/

theorem readReg_auxm (s : State) :
    readReg .auxm s = match s.auxm with | .defaultMode => 0#32 | .intensityMode => 1#32 := by
  rw [readReg]
  cases s.auxm <;> rfl

theorem readReg_pks (s : State) :
    readReg .pks s = BitVec.ofNat 32 ((if s.nph then 16 else 0) + s.nlo.toNat) := by
  refine eq_of_toNat_eq ?_
  rw [readReg, toNat_setWidth, toNat_append_eq_add, toNat_ofNat]
  cases s.nph <;> rfl

theorem readReg_pst (s : State) :
    readReg .pst s = match s.pst with | .idle => 0#32 | .opened => 1#32 | .done => 2#32 := by
  rw [readReg]
  cases s.pst <;> rfl

theorem readReg_fault (s : State) :
    readReg .fault s = match s.fault with
      | none => 0#32 | some .illegal => 1#32 | some .param => 2#32 | some .format => 3#32 | some .seq => 4#32 := by
  rw [readReg]
  rcases s.fault with _ | e
  · rfl
  · cases e <;> rfl

/-- Settles O25, register by register in the order of the index map. -/
theorem crdReadsEveryRegister : Obligations.CrdReadsEveryRegister := by
  refine ⟨decode_crd, fun s => ⟨
    exec_crd .vieww (setWidth_eq_append (by decide)), exec_crd .viewh (setWidth_eq_append (by decide)),
    exec_crd .auxm (readReg_auxm s), exec_crd .fin (setWidth_eq_append (by decide)),
    exec_crd .fout (setWidth_eq_append (by decide)), exec_crd .si (setWidth_eq_append (by decide)),
    exec_crd .est (setWidth_eq_append (by decide)), exec_crd .pks (readReg_pks s),
    exec_crd .acc (setWidth_eq_append (by decide)), exec_crd .pst (readReg_pst s),
    exec_crd .pcur (setWidth_eq_append (by decide)), exec_crd .plim (setWidth_eq_append (by decide)),
    exec_crd .pbytes (setWidth_eq_append (by decide)), exec_crd .fault (readReg_fault s),
    exec_crd .fop (setWidth_eq_append (by decide)), exec_crd .farg rfl,
    fun idx hidx hf => ?clear, fun idx hidx hf => ?latched⟩⟩
  case clear =>
    rw [exec_crd_of_reserved hidx, State.fail_of_clear hf, op_encode, arg_encode]
    rfl
  case latched =>
    rw [exec_crd_of_reserved hidx, State.fail_of_set hf]
    rfl

end Sys2Proof.Machine

/-! SUPPORT. CWR (R177) on an unlatched block built with any parameters: a legal value is written, any other is E_PARAM, an
index of no writable register is E_ILLEGAL. -/

namespace Sys2Proof.Machine

variable {P : Parameters} {L : ViewLimits} {i : Instr} {r : Reg} {s : State} {e : ErrorCode} {idx : BitVec 8}
  {v : BitVec 24}

theorem decode_cwr (arg : Word32) :
    decode (0x01#8 ++ arg) =
      if (arg.extractLsb' 24 8).toNat ≤ 0x04
      then some (.cwr (arg.extractLsb' 24 8) (arg.extractLsb' 0 24)) else none := by
  refine (decode_code_append .cwr arg).trans (if_congr ?_ rfl rfl)
  exact (and_iff_right BitVec.and_zero).trans (cwrIndexOk_iff _).symm

/-! ## The rule -/

theorem ruleCwr_of_legal (hw : r.writable = true) (hl : cfgLegal L r v = true) (s : State) :
    ruleCwr L r.index v s = .ok (s.writeCfg r v, 0#8 ++ v) := by
  simp only [ruleCwr, Reg.ofIndex_index, hw, hl, if_true]
  rw [BitVec.setWidth_eq_append (by decide)]
  rfl

theorem ruleCwr_of_illegal (hw : r.writable = true) (hl : cfgLegal L r v = false) (s : State) :
    ruleCwr L r.index v s = .error .param := by
  simp [ruleCwr, Reg.ofIndex_index, hw, hl]

theorem ruleCwr_of_reserved (h : ¬ Instr.cwrIndexOk idx) (s : State) : ruleCwr L idx v s = .error .illegal := by
  rw [cwrIndexOk_iff] at h
  rw [ruleCwr]
  cases hr : Reg.ofIndex idx with
  | none => rfl
  | some r => exact if_neg (by simpa [hr] using h)

/-! ## The command -/

/-- As `exec_of_error`, for a block built with any parameters. -/
theorem execWith_of_error (hf : s.fault = none) (h : ruleOf P i s = .error e) :
    execWith P i s = .next (s.raised e (e.code.setWidth 4) i.opcode.code i.arg) := by
  rw [execWith_of_clear P i hf, h, State.finish, State.fail_of_clear hf, op_encode, arg_encode]

theorem execWith_cwr_of_legal (hf : s.fault = none) (hw : r.writable = true) (hl : cfgLegal P.view r v = true) :
    execWith P (.cwr r.index v) s = .next ((s.writeCfg r v).replied (0#8 ++ v)) :=
  execWith_of_ok hf (ruleCwr_of_legal hw hl s)

theorem execWith_cwr_of_illegal (hf : s.fault = none) (hw : r.writable = true) (hl : cfgLegal P.view r v = false) :
    execWith P (.cwr r.index v) s = .next (s.raised .param 2#4 0x01#8 (r.index ++ v)) :=
  execWith_of_error hf (ruleCwr_of_illegal hw hl s)

theorem execWith_cwr_of_reserved (hf : s.fault = none) (h : ¬ Instr.cwrIndexOk idx) :
    execWith P (.cwr idx v) s = .next (s.raised .illegal 1#4 0x01#8 (idx ++ v)) :=
  execWith_of_error hf (ruleCwr_of_reserved h s)

/-! ## The two dimensions, whose limits are the block's (R4) -/

theorem execWith_cwr_vieww (hf : s.fault = none) (hpos : 1 ≤ v.toNat) (hmax : v.toNat ≤ P.view.maxW) :
    execWith P (.cwr 0x00#8 v) s = .next ({ s with vieww := BitVec.ofNat 12 v.toNat }.replied (0#8 ++ v)) := by
  rw [BitVec.ofNat_toNat]
  exact execWith_cwr_of_legal (r := .vieww) hf rfl (decide_eq_true ⟨hpos, hmax⟩)

theorem execWith_cwr_vieww_of_outside (hf : s.fault = none) (hout : ¬ (1 ≤ v.toNat ∧ v.toNat ≤ P.view.maxW)) :
    execWith P (.cwr 0x00#8 v) s = .next (s.raised .param 2#4 0x01#8 (0x00#8 ++ v)) :=
  execWith_cwr_of_illegal (r := .vieww) hf rfl (decide_eq_false hout)

theorem execWith_cwr_viewh (hf : s.fault = none) (hpos : 1 ≤ v.toNat) (hmax : v.toNat ≤ P.view.maxH) :
    execWith P (.cwr 0x01#8 v) s = .next ({ s with viewh := BitVec.ofNat 12 v.toNat }.replied (0#8 ++ v)) := by
  rw [BitVec.ofNat_toNat]
  exact execWith_cwr_of_legal (r := .viewh) hf rfl (decide_eq_true ⟨hpos, hmax⟩)

theorem execWith_cwr_viewh_of_outside (hf : s.fault = none) (hout : ¬ (1 ≤ v.toNat ∧ v.toNat ≤ P.view.maxH)) :
    execWith P (.cwr 0x01#8 v) s = .next (s.raised .param 2#4 0x01#8 (0x01#8 ++ v)) :=
  execWith_cwr_of_illegal (r := .viewh) hf rfl (decide_eq_false hout)

/-- 0 is the one value no frequency register takes. -/
theorem one_le_toNat_of_ne_zero (hv : v ≠ 0#24) : 1 ≤ v.toNat :=
  Nat.one_le_iff_ne_zero.2 fun h => hv (BitVec.eq_of_toNat_eq h)

/-- Settles O24: each register by its legal and its other values; `exec` is the block built with its own limits. -/
theorem cwrWritesTheRegister : Obligations.CwrWritesTheRegister := by
  refine ⟨decode_cwr, fun s v hf => ?_⟩
  rw [exec_eq_execWith_block]
  refine ⟨fun hpos hmax => ⟨execWith_cwr_vieww hf hpos hmax, hmax.trans_lt (by decide)⟩,
    execWith_cwr_vieww_of_outside (P := .block) hf,
    fun hpos hmax => ⟨execWith_cwr_viewh hf hpos hmax, hmax.trans_lt (by decide)⟩,
    execWith_cwr_viewh_of_outside (P := .block) hf,
    execWith_cwr_of_legal (r := .auxm) hf rfl rfl, execWith_cwr_of_legal (r := .auxm) hf rfl rfl,
    fun hv => execWith_cwr_of_illegal (r := .auxm) hf rfl (decide_eq_false (Nat.not_le.2 hv)),
    fun hv => execWith_cwr_of_legal (r := .fin) hf rfl (decide_eq_true (one_le_toNat_of_ne_zero hv)),
    execWith_cwr_of_illegal (r := .fin) hf rfl rfl,
    fun hv => execWith_cwr_of_legal (r := .fout) hf rfl (decide_eq_true (one_le_toNat_of_ne_zero hv)),
    execWith_cwr_of_illegal (r := .fout) hf rfl rfl,
    fun idx hidx => execWith_cwr_of_reserved hf (Nat.not_le.2 hidx),
    fun P => ⟨fun hpos hmax _ => execWith_cwr_vieww hf hpos hmax, execWith_cwr_vieww_of_outside hf,
      fun hpos hmax _ => execWith_cwr_viewh hf hpos hmax, execWith_cwr_viewh_of_outside hf⟩⟩

end Sys2Proof.Machine

/-! SUPPORT. Accepting a word by what it decodes to (R197): a word that decodes runs its command, latched or not, because
the latch tests the same opcode on both sides; any other word is refused by the latch or E_ILLEGAL. -/

namespace Sys2Proof.Machine

variable {i : Instr} {s t : State} {w : CommandWord}

/-- What the latch of a latched block refuses, by the opcode's number. -/
theorem State.refusesOp_of_set (hf : s.fault ≠ none) (op : BitVec 8) :
    s.refusesOp op = true ↔ op ∉ [0x00#8, 0x02#8, 0x03#8] := by
  simp [State.refusesOp_iff, hf]

theorem Opcode.code_mem_iff (o : Opcode) : o.code ∈ [0x00#8, 0x02#8, 0x03#8] ↔ o ∈ latchedOpcodes := by
  cases o <;> decide

/-- A command that is not one of NOP, CRD and SRST is refused by a set latch (R195). -/
theorem exec_of_not_runsLatched (hf : s.fault ≠ none) (hi : ¬ RunsLatched i) : exec i s = .next s.abort := by
  rw [exec_eq, perform_of_refused]
  rwa [State.refusesOp_of_set hf, Opcode.code_mem_iff, opcode_mem_latchedOpcodes_iff]

theorem accept_of_refused (hr : s.refusesOp (CommandWord.op w) = true) : accept w s = .next s.abort := if_pos hr

/-- An illegal word that the latch does not refuse is E_ILLEGAL. -/
theorem accept_of_decode_none (hr : s.refusesOp (CommandWord.op w) = false) (hd : decode w = none) :
    accept w s = .next (s.fail .illegal w) := by
  simp [accept, hr, hd]

/-- Accepting the word of a command is the command: the two latch tests agree (log 12). -/
theorem accept_of_decode_some (hd : decode w = some i) : accept w s = exec i s := by
  have hop : CommandWord.op w = i.opcode.code := by rw [← encode_of_decode hd, op_encode]
  cases hr : s.refusesOp (CommandWord.op w) with
  | true => rw [accept_of_refused hr, exec_eq, perform_of_refused i _ (hop ▸ hr)]
  | false => simp [accept, hr, hd]

/-- Settles O5. -/
theorem stepRunsTheDecodedCommand : Obligations.StepRunsTheDecodedCommand := by
  intro s w i rest hp hd
  refine ⟨wellFormed_of_decode hd, ?_⟩
  rw [step_of_port_cons hp, perAction, accept_of_decode_some hd]

/-- Settles O12: the latch test of the word, and that of the command. -/
theorem latchedBlockAborts : Obligations.LatchedBlockAborts :=
  ⟨fun _ w hf hop => accept_of_refused ((State.refusesOp_of_set hf (CommandWord.op w)).2 hop),
    fun _ _ hf hi => exec_of_not_runsLatched hf hi⟩

/-- Settles O6, by what stands at the port; an illegal word by the latch and, while it is set, by the opcode. -/
theorem stepOnEverythingElse : Obligations.StepOnEverythingElse := by
  refine ⟨fun s w rest hp hd hf => ?clear, fun s w rest e hp hd hf => ?latched, fun s rest hp => ?reset,
    fun s hp => step_of_port_nil hp⟩
  case clear =>
    have hf' : ({ s with port := rest } : State).fault = none := hf
    rw [step_of_port_cons hp, perAction, accept_of_decode_none (State.refusesOp_of_clear hf' _) hd,
      State.fail_of_clear hf']
    rfl
  case latched =>
    have hf' : ({ s with port := rest } : State).fault ≠ none := Option.ne_none_iff_exists'.2 ⟨e, hf⟩
    rw [step_of_port_cons hp, perAction]
    by_cases hop : w.extractLsb' 32 8 ∈ [0x00#8, 0x02#8, 0x03#8]
    · have hr : ({ s with port := rest } : State).refusesOp (CommandWord.op w) = false :=
        Bool.eq_false_iff.2 fun h => (State.refusesOp_of_set hf' _).1 h hop
      rw [accept_of_decode_none hr hd, State.fail_of_set hf', if_pos hop]
      rfl
    · rw [accept_of_refused ((State.refusesOp_of_set hf' (CommandWord.op w)).2 hop), if_neg hop]
      rfl
  case reset => rw [step_of_port_cons hp]; rfl

end Sys2Proof.Machine

/-! SUPPORT. Every cause of an error (R191 to R194): `Raises` has one constructor per cause, and a rule ends in an error
exactly when one of them holds (`Raises.ruleOf_eq`, `raises_of_error`). The statements about E_PARAM, E_FORMAT and E_SEQ are
read off from it, and errors are precise because `fail` is the one way to end in an error's status. -/

namespace Sys2Proof.Machine

variable {P : Parameters} {i : Instr} {s t : State} {e : ErrorCode} {w : CommandWord}

/-- `Raises P s i e`: the command `i` meets on `s` a cause of the error `e`. -/
inductive Raises (P : Parameters) (s : State) : Instr → ErrorCode → Prop where
  | reservedWrite (idx : BitVec 8) (v : BitVec 24) (hidx : ¬ Instr.cwrIndexOk idx) : Raises P s (.cwr idx v) .illegal
  | reservedRead (idx : BitVec 8) (hidx : ¬ Instr.crdIndexOk idx) : Raises P s (.crd idx) .illegal
  | illegalValue (r : Reg) (v : BitVec 24) (hw : r.writable = true) (hl : cfgLegal P.view r v = false) :
      Raises P s (.cwr r.index v) .param
  | rateUnconfigured (x : BitVec 16) (hc : ¬ s.RateConfigured) : Raises P s (.rsmp x) .param
  | rasterOpen (w h : BitVec 12) (hp : s.pst = .opened) : Raises P s (.pbegin w h) .seq
  | rasterWithoutView (w h : BitVec 12) (hp : s.pst ≠ .opened) (hv : ¬ s.ViewConfigured) : Raises P s (.pbegin w h) .param
  | wrongWidth (w h : BitVec 12) (hp : s.pst ≠ .opened) (hv : s.ViewConfigured) (hw : w ≠ s.vieww) :
      Raises P s (.pbegin w h) .format
  | tooHigh (w h : BitVec 12) (hp : s.pst ≠ .opened) (hv : s.ViewConfigured) (hw : w = s.vieww)
      (hh : s.viewh.toNat < h.toNat) : Raises P s (.pbegin w h) .param
  | pixelRefused (r g b : BitVec 8) (hbad : s.pst ≠ .opened ∨ s.plim.toNat ≤ s.pcur.toNat) : Raises P s (.ppix r g b) .seq
  | rasterIncomplete (hbad : s.pst ≠ .opened ∨ s.pcur ≠ s.plim) : Raises P s .pend .seq
  | noRaster (addr : BitVec 26) (hp : s.pst = .idle) : Raises P s (.prd addr) .seq
  | outsideActive (addr : BitVec 26) (hp : s.pst ≠ .idle) (ha : s.pbytes.toNat ≤ addr.toNat) : Raises P s (.prd addr) .param
  | voiceOutside (rc k : BitVec 8) (hout : P.timing.nrc ≤ rc.toNat ∨ P.timing.nfps ≤ k.toNat) : Raises P s (.fvs rc k) .param
  | sizeWithoutView (v : BitVec 24) (hv : ¬ s.ViewConfigured) : Raises P s (.fsz v) .param
  | rateOutside (rc : BitVec 8) (hrc : P.timing.nrc ≤ rc.toNat) : Raises P s (.frc rc) .param
  | durationOutside (sel : BitVec 1) (k : BitVec 8) (hk : P.timing.nfps ≤ k.toNat) : Raises P s (.fdur sel k) .param

/-- Each cause makes the rule end in its error. -/
theorem Raises.ruleOf_eq (h : Raises P s i e) : ruleOf P i s = .error e := by
  cases h with
  | reservedWrite idx v hidx => exact ruleCwr_of_reserved hidx s
  | reservedRead idx hidx => exact ruleCrd_of_reserved hidx s
  | illegalValue r v hw hl => exact ruleCwr_of_illegal hw hl s
  | rateUnconfigured x hc => exact ruleRsmp_of_unconfigured hc x
  | rasterOpen w h hp => exact rulePbegin_of_opened hp
  | rasterWithoutView w h hp hv => exact rulePbegin_of_unconfigured hp hv
  | wrongWidth w h hp hv hw => exact rulePbegin_of_wrong_width hp hv hw
  | tooHigh w h hp hv hw hh => exact rulePbegin_of_too_high hp hv hw hh
  | pixelRefused r g b hbad => exact rulePpix_of_refused r g b hbad
  | rasterIncomplete hbad => exact rulePend_of_refused hbad
  | noRaster addr hp => exact if_pos hp
  | outsideActive addr hp ha => exact (if_neg hp).trans (if_pos ha)
  | voiceOutside rc k hout => exact ruleFvs_of_outside hout
  | sizeWithoutView v hv => exact ruleFsz_of_unconfigured hv v
  | rateOutside rc hrc => exact ruleFrc_of_outside hrc
  | durationOutside sel k hk => exact ruleFdur_of_outside hk

/-- A check before the rest of a rule: the error is the check's, or the check passes and the error is a later one. -/
theorem check_eq_error_iff {c : Prop} [Decidable c] {e' : ErrorCode} {rest : RuleResult} :
    (if c then .error e' else rest) = .error e ↔ (c ∧ e' = e) ∨ (¬ c ∧ rest = .error e) := by
  split <;> simp_all

theorem raises_of_ruleCwr_error {idx : BitVec 8} {v : BitVec 24} (h : ruleCwr P.view idx v s = .error e) :
    Raises P s (.cwr idx v) e := by
  by_cases hidx : Instr.cwrIndexOk idx
  · obtain ⟨r, hr, hw⟩ := (Option.any_eq_true ..).1 ((cwrIndexOk_iff idx).1 hidx)
    obtain rfl := Reg.index_of_ofIndex hr
    cases hl : cfgLegal P.view r v with
    | true => cases (ruleCwr_of_legal hw hl s).symm.trans h
    | false =>
      cases (ruleCwr_of_illegal hw hl s).symm.trans h
      exact .illegalValue r v hw hl
  · cases (ruleCwr_of_reserved hidx s).symm.trans h
    exact .reservedWrite idx v hidx

theorem raises_of_ruleCrd_error {idx : BitVec 8} (h : ruleCrd idx s = .error e) : Raises P s (.crd idx) e := by
  by_cases hidx : Instr.crdIndexOk idx
  · obtain ⟨r, hr⟩ := Option.isSome_iff_exists.1 ((crdIndexOk_iff idx).1 hidx)
    obtain rfl := Reg.index_of_ofIndex hr
    cases (ruleCrd_index r s).symm.trans h
  · cases (ruleCrd_of_reserved hidx s).symm.trans h
    exact .reservedRead idx hidx

theorem raises_of_ruleRsmp_error {x : BitVec 16} (h : ruleRsmp x s = .error e) : Raises P s (.rsmp x) e := by
  by_cases hc : s.RateConfigured
  · cases (ruleRsmp_of_configured hc x).symm.trans h
  · cases (ruleRsmp_of_unconfigured hc x).symm.trans h
    exact .rateUnconfigured x hc

theorem raises_of_rulePbegin_error {wd ht : BitVec 12} (h : rulePbegin wd ht s = .error e) :
    Raises P s (.pbegin wd ht) e := by
  simp only [rulePbegin, check_eq_error_iff, reduceCtorEq, and_false, or_false] at h
  rcases h with ⟨hp, rfl⟩ | ⟨hp, ⟨hv, rfl⟩ | ⟨hv, ⟨hw, rfl⟩ | ⟨hw, hh, rfl⟩⟩⟩
  · exact .rasterOpen wd ht hp
  · exact .rasterWithoutView wd ht hp fun hc => not_or.2 hc hv
  · exact .wrongWidth wd ht hp (not_or.1 hv) hw
  · exact .tooHigh wd ht hp (not_or.1 hv) (not_not.1 hw) hh

theorem raises_of_rulePpix_error {r g b : BitVec 8} (h : rulePpix r g b s = .error e) : Raises P s (.ppix r g b) e := by
  simp only [rulePpix, check_eq_error_iff, reduceCtorEq, and_false, or_false] at h
  rcases h with ⟨hp, rfl⟩ | ⟨-, hfull, rfl⟩
  · exact .pixelRefused r g b (.inl hp)
  · exact .pixelRefused r g b (.inr hfull)

theorem raises_of_rulePend_error (h : rulePend s = .error e) : Raises P s .pend e := by
  simp only [rulePend, check_eq_error_iff, reduceCtorEq, and_false, or_false] at h
  rcases h with ⟨hp, rfl⟩ | ⟨-, hmissing, rfl⟩
  · exact .rasterIncomplete (.inl hp)
  · exact .rasterIncomplete (.inr hmissing)

/-- A rule ends in an error only for one of the causes. -/
theorem raises_of_error (h : ruleOf P i s = .error e) : Raises P s i e := by
  cases i
  case cwr => exact raises_of_ruleCwr_error h
  case crd => exact raises_of_ruleCrd_error h
  case rsmp => exact raises_of_ruleRsmp_error h
  case pbegin => exact raises_of_rulePbegin_error h
  case ppix => exact raises_of_rulePpix_error h
  case pend => exact raises_of_rulePend_error h
  case prd addr =>
    simp only [ruleOf, check_eq_error_iff, reduceCtorEq, and_false, or_false] at h
    rcases h with ⟨hp, rfl⟩ | ⟨hp, ha, rfl⟩
    · exact .noRaster addr hp
    · exact .outsideActive addr hp ha
  case fvs rc k =>
    obtain ⟨hout, rfl⟩ | ⟨-, hok⟩ := check_eq_error_iff.1 h
    · exact .voiceOutside rc k hout
    · cases hok
  case fsz v =>
    obtain ⟨hv, rfl⟩ | ⟨-, hok⟩ := check_eq_error_iff.1 h
    · exact .sizeWithoutView v fun hc => not_or.2 hc hv
    · cases hok
  case frc rc =>
    obtain ⟨hrc, rfl⟩ | ⟨-, hok⟩ := check_eq_error_iff.1 h
    · exact .rateOutside rc hrc
    · cases hok
  case fdur sel k =>
    obtain ⟨hk, rfl⟩ | ⟨-, hok⟩ := check_eq_error_iff.1 h
    · exact .durationOutside sel k hk
    · cases hok
  all_goals cases h

/-! ## The status of a response (R71, R190) -/

theorem errorResponse_status_inj {e' : ErrorCode} : (errorResponse e').status = (errorResponse e).status ↔ e' = e := by
  cases e <;> cases e' <;> decide

/-- An error's status is its code (R190). -/
theorem errorResponse_status_toNat (e : ErrorCode) : (errorResponse e).status.toNat = e.code.toNat := by
  cases e <;> rfl

theorem lastStatus_of_fail_iff {e' : ErrorCode} :
    lastStatus (s.fail e' w).replies = some (errorResponse e).status ↔ e' = e := by
  rw [State.fail_replies, lastStatus_append, Option.some.injEq, errorResponse_status_inj]

/-- E_ABORTED is none of the errors (R190). -/
theorem abortedResponse_status_ne_error (e : ErrorCode) : abortedResponse.status ≠ (errorResponse e).status := by
  cases e <;> decide

/-- A command answered with an error's status has met a cause of the error. -/
theorem exec_raises (h : exec i s = .next t) (hst : lastStatus t.replies = some (errorResponse e).status) :
    Raises Parameters.block s i e := by
  rcases exec_cases h with ⟨-, rfl⟩ | ⟨-, e', he, rfl⟩ | ⟨-, u, d, -, rfl⟩
  · simp [abortedResponse_status_ne_error] at hst
  · obtain rfl := lastStatus_of_fail_iff.1 hst
    exact raises_of_error he
  · simp [(errorResponse_status_ne_zero e).symm] at hst

/-- An unlatched block answers with an error's status exactly when the command meets a cause of the error. -/
theorem exec_status_iff (hf : s.fault = none) (i : Instr) :
    ∃ t, exec i s = .next t ∧
      ∀ e, lastStatus t.replies = some (errorResponse e).status ↔ Raises Parameters.block s i e := by
  refine ⟨_, exec_of_clear i hf, fun e => ⟨exec_raises (exec_of_clear i hf), fun h => ?_⟩⟩
  rw [h.ruleOf_eq, State.finish, lastStatus_of_fail_iff]

/-! ## The causes of each error -/

/-- Settles O17: the four causes of E_SEQ, one by one. -/
theorem sequenceErrorExactly : Obligations.SequenceErrorExactly := by
  intro s i hf _
  obtain ⟨t, ht, hst⟩ := exec_status_iff hf i
  refine ⟨t, ht, (hst .seq).trans ⟨fun h => ?_, ?_⟩⟩
  · cases h with
    | rasterOpen w h hp => exact .inl ⟨w, h, rfl, hp⟩
    | pixelRefused r g b hbad => exact .inr (.inl ⟨r, g, b, rfl, hbad⟩)
    | rasterIncomplete hbad => exact .inr (.inr (.inl ⟨rfl, hbad⟩))
    | noRaster addr hp => exact .inr (.inr (.inr ⟨addr, rfl, hp⟩))
  · rintro (⟨w, h, rfl, hp⟩ | ⟨r, g, b, rfl, hbad⟩ | ⟨rfl, hbad⟩ | ⟨addr, rfl, hp⟩)
    · exact .rasterOpen w h hp
    · exact .pixelRefused r g b hbad
    · exact .rasterIncomplete hbad
    · exact .noRaster addr hp

/-- Settles O16: the one cause of E_FORMAT, and the two outcomes of a raster of the view's width. -/
theorem formatErrorExactly : Obligations.FormatErrorExactly := by
  intro s i hf _
  obtain ⟨t, ht, hst⟩ := exec_status_iff hf i
  refine ⟨t, ht, (hst .format).trans ⟨fun h => ?_, ?_⟩, ?_⟩
  · cases h with
    | wrongWidth w h hp hv hw => exact ⟨w, h, rfl, hp, hv, hw⟩
  · rintro ⟨w, h, rfl, hp, hv, hw⟩
    exact .wrongWidth w h hp hv hw
  · rintro h rfl hp hv
    refine ⟨fun hh => ?_, fun hh => (hst .param).2 (.tooHigh _ h hp hv rfl hh)⟩
    obtain rfl := Host.Outcome.next.inj (ht.symm.trans (exec_pbegin hf hp hv rfl hh))
    simp

/-- RSMP's three conditions (R135, R192). -/
theorem not_rateConfigured_iff : ¬ s.RateConfigured ↔ s.fin = 0#24 ∨ s.fout = 0#24 ∨ s.fin.toNat < s.fout.toNat := by
  rw [← not_iff_not, not_not, not_or, not_or, Nat.not_lt]
  exact ⟨fun h => ⟨h.fin, h.fout, h.le⟩, fun ⟨hfin, hfout, hle⟩ => ⟨hfin, hfout, hle⟩⟩

/-- The one value CWR refuses to a frequency register (R26, R192). -/
theorem cfgLegal_fin_eq_false_iff {L : ViewLimits} {v : BitVec 24} : cfgLegal L .fin v = false ↔ v = 0#24 := by
  simp [cfgLegal, BitVec.toNat_eq]

theorem cfgLegal_fout_eq_false_iff {L : ViewLimits} {v : BitVec 24} : cfgLegal L .fout v = false ↔ v = 0#24 :=
  cfgLegal_fin_eq_false_iff (L := L)

/-- Settles O15: the causes of E_PARAM one by one, those of CWR register by register. -/
theorem paramErrorExactly : Obligations.ParamErrorExactly := by
  intro s i hf _
  obtain ⟨t, ht, hst⟩ := exec_status_iff hf i
  refine ⟨t, ht, (hst .param).trans ⟨fun h => ?_, ?_⟩⟩
  · cases h with
    | illegalValue r v hw hl =>
      cases r <;> simp only [Reg.writable, Bool.false_eq_true] at hw
      case vieww => exact .inl ⟨v, rfl, of_decide_eq_false hl⟩
      case viewh => exact .inr (.inl ⟨v, rfl, of_decide_eq_false hl⟩)
      case auxm => exact .inr (.inr (.inl ⟨v, rfl, Nat.not_le.1 (of_decide_eq_false hl)⟩))
      case fin => simp [Reg.index, cfgLegal_fin_eq_false_iff.1 hl]
      case fout => simp [Reg.index, cfgLegal_fout_eq_false_iff.1 hl]
    | rateUnconfigured x hc => simpa using not_rateConfigured_iff.1 hc
    | rasterWithoutView w h hp hv => simp [hp, hv]
    | tooHigh w h hp hv hw hh => simp [hp, hw, hh]
    | outsideActive addr hp ha => simp [hp, ha]
    | voiceOutside rc k hout => simpa using hout
    | sizeWithoutView v hv => simpa using hv
    | rateOutside rc hrc => simpa using hrc
    | durationOutside sel k hk => simpa using hk
  · rintro (⟨v, rfl, hv⟩ | ⟨v, rfl, hv⟩ | ⟨v, rfl, hv⟩ | rfl | rfl | ⟨x, rfl, hc⟩ | ⟨w, h, rfl, hp, hbad⟩ | ⟨a, rfl, hp, ha⟩ |
      ⟨rc, k, rfl, hout⟩ | ⟨v, rfl, hv⟩ | ⟨rc, rfl, hrc⟩ | ⟨sel, k, rfl, hk⟩)
    · exact .illegalValue .vieww v rfl (decide_eq_false hv)
    · exact .illegalValue .viewh v rfl (decide_eq_false hv)
    · exact .illegalValue .auxm v rfl (decide_eq_false (Nat.not_le.2 hv))
    · exact .illegalValue .fin 0#24 rfl rfl
    · exact .illegalValue .fout 0#24 rfl rfl
    · exact .rateUnconfigured x (not_rateConfigured_iff.2 hc)
    · by_cases hv : s.ViewConfigured
      · obtain ⟨hw, hh⟩ := hbad.resolve_left (not_not.2 hv)
        exact .tooHigh w h hp hv hw hh
      · exact .rasterWithoutView w h hp hv
    · exact .outsideActive a hp ha
    · exact .voiceOutside rc k hout
    · exact .sizeWithoutView v hv
    · exact .rateOutside rc hrc
    · exact .durationOutside sel k hk

/-! ## Errors are precise (R196) -/

/-- A word is answered with an error's response, and the block left as `fail` leaves it, or with status 0 or 5. -/
theorem accept_response_cases (h : accept w s = .next t) :
    (∃ e, t = s.fail e w) ∨ ∃ r, t.replies = s.replies ++ [r] ∧ (r.status = 0#4 ∨ r.status = 5#4) := by
  rcases accept_cases h with ⟨-, rfl⟩ | ⟨-, -, rfl⟩ | ⟨-, i, hd, he⟩
  · exact .inr ⟨abortedResponse, rfl, .inr rfl⟩
  · exact .inl ⟨.illegal, rfl⟩
  · rcases exec_cases he with ⟨-, rfl⟩ | ⟨-, e, -, rfl⟩ | ⟨-, u, d, hok, rfl⟩
    · exact .inr ⟨abortedResponse, rfl, .inr rfl⟩
    · exact .inl ⟨e, by rw [encode_of_decode hd]⟩
    · exact .inr ⟨okResponse d, congrArg (· ++ [okResponse d]) (ruleOf_ok_port hok).2, .inl rfl⟩

/-- Settles O13: the word failed, since no other end has such a status, and `fail` writes nothing but the latch. -/
theorem errorsArePrecise : Obligations.ErrorsArePrecise := by
  intro s t w r h hr h1 h4
  rcases accept_response_cases h with ⟨e, rfl⟩ | ⟨r', hr', hst⟩
  · obtain rfl : errorResponse e = r := by simpa using hr
    refine ⟨rfl, s.fail_sameButLatch e w, s.fail_port e w,
      State.memRead_congr (s.fail_pst e w) (s.fail_pbytes e w) (s.fail_pixbuf e w), fun hf => ?_,
      s.fail_latch_of_set e w⟩
    rw [State.fail_of_clear hf]
    exact ⟨(errorResponse_status_toNat e).symm, rfl, rfl⟩
  · obtain rfl : r' = r := by simpa [hr'] using hr
    rcases hst with hst | hst <;> simp [hst] at h1 h4

end Sys2Proof.Machine

/-! SUPPORT. The illegal words in integers (R90, R191): `Opcode.RejectsOperand` gives for each opcode the operands its row of
R74 refuses, and a word is illegal exactly when its opcode is reserved or refuses its operand. -/

namespace Sys2Proof

open BitVec

variable {o : Opcode} {arg : Word32} {w : CommandWord} {lo n : Nat}

/-- The operands, as numbers, that are illegal with an opcode: a reserved bit is set, or the register index is not one the
command takes (R74, R75, R90). -/
def Opcode.RejectsOperand (o : Opcode) (arg : Nat) : Prop :=
  match o with
  | .nop | .srst | .arst | .aflush | .rrst | .pend => arg ≠ 0
  | .cwr => arg / 2 ^ 24 > 0x04
  | .crd => arg % 2 ^ 24 ≠ 0 ∨
      arg / 2 ^ 24 ∉
        [0x00, 0x01, 0x02, 0x03, 0x04, 0x10, 0x11, 0x12, 0x13, 0x20, 0x21, 0x22, 0x23, 0x30, 0x31, 0x32]
  | .anrw | .aencs | .rsmp | .fvs => arg / 2 ^ 16 ≠ 0
  | .adec | .apck => arg / 2 ^ 4 ≠ 0
  | .aenc => arg / 2 ^ 12 ≠ 0
  | .adecb | .frc => arg / 2 ^ 8 ≠ 0
  | .dmix => False
  | .pconv | .ppix | .fsz => arg / 2 ^ 24 ≠ 0
  | .pbegin => arg / 2 ^ 28 ≠ 0 ∨ arg / 2 ^ 12 % 2 ^ 4 ≠ 0
  | .prd => arg / 2 ^ 26 ≠ 0
  | .fdur => arg / 2 ^ 9 ≠ 0

/-! ## Fields as numbers -/

theorem argField_toNat (arg : Word32) (lo n : Nat) : (argField arg lo n).toNat = arg.toNat / 2 ^ lo % 2 ^ n := by
  rw [argField, extractLsb'_toNat, Nat.shiftRight_eq_div_pow]

/-- The uppermost field is a plain quotient. -/
theorem argField_toNat_of_top (hn : lo + n = 32) (arg : Word32) : (argField arg lo n).toNat = arg.toNat / 2 ^ lo := by
  rw [argField_toNat, Nat.mod_eq_of_lt]
  exact Nat.div_lt_of_lt_mul (by rw [← Nat.pow_add, hn]; exact arg.isLt)

theorem argField_eq_zero_iff : argField arg lo n = 0#n ↔ arg.toNat / 2 ^ lo % 2 ^ n = 0 := by
  rw [toNat_eq, argField_toNat, toNat_ofNat, Nat.zero_mod]

theorem argField_eq_zero_iff_of_top (hn : lo + n = 32) : argField arg lo n = 0#n ↔ arg.toNat / 2 ^ lo = 0 := by
  rw [toNat_eq, argField_toNat_of_top hn, toNat_ofNat, Nat.zero_mod]

theorem op_toNat (w : CommandWord) : (CommandWord.op w).toNat = w.toNat / 2 ^ 32 := by
  rw [CommandWord.op, extractLsb'_toNat, Nat.shiftRight_eq_div_pow]
  omega

theorem arg_toNat (w : CommandWord) : (CommandWord.arg w).toNat = w.toNat % 2 ^ 32 := by
  rw [CommandWord.arg, extractLsb'_toNat, Nat.shiftRight_zero]

/-! ## The operands an opcode refuses -/

theorem ite_some_none_eq_none_iff {α : Type} {c : Prop} [Decidable c] {a : α} :
    (if c then some a else none) = none ↔ ¬ c := by
  simp

theorem decode_eq_none_of_reserved_high (hlo32 : lo ≤ 32) (hhi : argField o.reserved lo (32 - lo) = allOnes (32 - lo))
    (hlo : argField o.reserved 0 lo = 0#lo) (hidx : ∀ arg, indexAccepted (o.operands arg) = true) (arg : Word32) :
    decode (o.code ++ arg) = none ↔ arg.toNat / 2 ^ lo ≠ 0 := by
  have hn : lo + (32 - lo) = 32 := Nat.add_sub_of_le hlo32
  rw [decode_of_reserved_high hn hhi hlo hidx, ite_some_none_eq_none_iff, argField_eq_zero_iff_of_top hn]

theorem decode_eq_none_of_reserved_all (hall : o.reserved = allOnes 32)
    (hidx : ∀ arg, indexAccepted (o.operands arg) = true) (arg : Word32) :
    decode (o.code ++ arg) = none ↔ arg.toNat ≠ 0 := by
  rw [decode_of_reserved_all hall hidx, ite_some_none_eq_none_iff, toNat_eq, toNat_ofNat, Nat.zero_mod]

theorem decode_cwr_eq_none_iff (arg : Word32) : decode (Opcode.cwr.code ++ arg) = none ↔ arg.toNat / 2 ^ 24 > 0x04 := by
  rw [Opcode.code, Machine.decode_cwr, ite_some_none_eq_none_iff, Nat.not_le, gt_iff_lt,
    ← argField_toNat_of_top (n := 8) rfl, argField]

theorem decode_crd_eq_none_iff (arg : Word32) :
    decode (Opcode.crd.code ++ arg) = none ↔ Opcode.crd.RejectsOperand arg.toNat := by
  have hlow : arg.extractLsb' 0 24 = 0#24 ↔ arg.toNat % 2 ^ 24 = 0 :=
    (argField_eq_zero_iff (lo := 0)).trans (by rw [Nat.pow_zero, Nat.div_one])
  have hindex : (arg.extractLsb' 24 8).toNat = arg.toNat / 2 ^ 24 := argField_toNat_of_top rfl arg
  rw [Opcode.code, Machine.decode_crd, ite_some_none_eq_none_iff, not_and_or, hlow, Instr.crdIndexOk, hindex,
    Opcode.RejectsOperand]

theorem decode_pbegin_eq_none_iff (arg : Word32) :
    decode (Opcode.pbegin.code ++ arg) = none ↔ arg.toNat / 2 ^ 28 ≠ 0 ∨ arg.toNat / 2 ^ 12 % 2 ^ 4 ≠ 0 := by
  rw [decode_pbegin, ite_some_none_eq_none_iff, not_and_or, argField_eq_zero_iff_of_top rfl, argField_eq_zero_iff]

theorem decode_eq_none_iff_rejects (o : Opcode) (arg : Word32) :
    decode (o.code ++ arg) = none ↔ o.RejectsOperand arg.toNat := by
  cases o with
  | nop | srst | arst | aflush | rrst | pend => exact decode_eq_none_of_reserved_all rfl (fun _ => rfl) arg
  | cwr => exact decode_cwr_eq_none_iff arg
  | crd => exact decode_crd_eq_none_iff arg
  | pbegin => exact decode_pbegin_eq_none_iff arg
  | dmix => simp [decode_code_append, Opcode.RejectsOperand, Opcode.reserved, indexAccepted, Opcode.operands]
  | anrw | adec | aenc | apck | aencs | adecb | rsmp | pconv | ppix | prd | fvs | fsz | frc | fdur =>
    exact decode_eq_none_of_reserved_high (by decide) (by decide) (by decide) (fun _ => rfl) arg

/-! ## The words of a reserved opcode -/

/-- The 24 opcodes as numbers (R73). -/
theorem ofCode_eq_none_iff (op : BitVec 8) : Opcode.ofCode op = none ↔ op.toNat ∉ Opcode.all.map fun o => o.code.toNat := by
  simp [Opcode.ofCode, toNat_eq]

theorem decode_of_reserved_opcode (h : Opcode.ofCode (CommandWord.op w) = none) : decode w = none := by
  simp [decode, decodeOrReason, h, Except.toOption]

/-- A word of one of the 24 opcodes is illegal exactly when the opcode refuses its operand. -/
theorem decode_eq_none_iff_of_ofCode (h : Opcode.ofCode (CommandWord.op w) = some o) :
    decode w = none ↔ o.RejectsOperand (w.toNat % 2 ^ 32) := by
  rw [← arg_toNat, ← decode_eq_none_iff_rejects, Opcode.code_of_ofCode h, op_arg]

end Sys2Proof

namespace Sys2Proof.Machine

variable {i : Instr} {s t : State} {w : CommandWord}

/-- The command of a word that decodes is never answered E_ILLEGAL: its register index is one it takes (R90, R191). -/
theorem exec_status_ne_illegal (hwf : i.wellFormed = true) (h : exec i s = .next t) :
    lastStatus t.replies ≠ some 1#4 := by
  intro hst
  cases exec_raises (e := .illegal) h hst with
  | reservedWrite idx v hidx => exact hidx (of_decide_eq_true hwf)
  | reservedRead idx hidx => exact hidx (of_decide_eq_true hwf)

/-- A word the latch does not refuse is answered E_ILLEGAL exactly when it does not decode, and then nothing but the latch
changes (R191, R196). -/
theorem accept_illegal_iff (hr : s.refusesOp (CommandWord.op w) = false) :
    ∃ t, accept w s = .next t ∧ (lastStatus t.replies = some 1#4 ↔ decode w = none) ∧
      (lastStatus t.replies = some 1#4 → s.SameButLatch t) := by
  cases hd : decode w with
  | none =>
    exact ⟨_, accept_of_decode_none hr hd, iff_of_true (lastStatus_of_fail_iff.2 rfl) rfl,
      fun _ => s.fail_sameButLatch .illegal w⟩
  | some i =>
    obtain ⟨t, -, ht, -⟩ := everyCommandAnswersOnce i s
    have hne := exec_status_ne_illegal (wellFormed_of_decode hd) ht
    exact ⟨t, (accept_of_decode_some hd).trans ht, iff_of_false hne (Option.some_ne_none i), fun h => absurd h hne⟩

/-- Settles O4: a word that does not decode has a reserved opcode, or an operand its opcode refuses. -/
theorem illegalExactly : Obligations.IllegalExactly := by
  intro s w op arg hop
  have hr : s.refusesOp (CommandWord.op w) = false := by
    rw [Bool.eq_false_iff, ne_eq, State.refusesOp_iff]
    simp only [BitVec.toNat_eq, op_toNat, BitVec.toNat_ofNat, ne_eq]
    tauto
  obtain ⟨t, ht, hill, hframe⟩ := accept_illegal_iff hr
  refine ⟨t, ht, hill.trans ?_, hframe⟩
  cases ho : Opcode.ofCode (CommandWord.op w) with
  | none =>
    refine iff_of_true (decode_of_reserved_opcode ho) (.inl ?_)
    rw [ofCode_eq_none_iff, op_toNat] at ho
    exact ho
  | some o =>
    have hcode : op = o.code.toNat := by rw [Opcode.code_of_ofCode ho, op_toNat]
    rw [decode_eq_none_iff_of_ofCode ho, hcode]
    cases o <;> simp [Opcode.code, Opcode.RejectsOperand, arg]

end Sys2Proof.Machine

/-! SUPPORT. Every step answers: accepting a word gives one proper response and leaves the host's port alone, because each
of its three ends does (R197); the step itself takes the action at the head of the port (R238). -/

namespace Sys2Proof.Machine

/-- Accepting a word is total, for illegal words and a latched block too (R71, R197). -/
theorem accept_answers (w : CommandWord) (s : State) :
    ∃ t r, accept w s = .next t ∧ t.port = s.port ∧ t.replies = s.replies ++ [r] ∧ r.proper := by
  cases hd : decode w with
  | some i => simpa only [accept_of_decode_some hd] using everyCommandAnswersOnce i s
  | none =>
    cases hr : s.refusesOp (CommandWord.op w) with
    | true => exact ⟨s.abort, abortedResponse, accept_of_refused hr, s.abort_port, s.abort_replies, abortedResponse_proper⟩
    | false =>
      exact ⟨s.fail .illegal w, errorResponse .illegal, accept_of_decode_none hr hd, s.fail_port .illegal w,
        s.fail_replies .illegal w, errorResponse_proper .illegal⟩

/-- Settles O7, by what stands at the port: nothing, a command word or hardware reset. -/
theorem everyStepAnswersOnce : Obligations.EveryStepAnswersOnce := by
  intro s
  cases hp : s.port with
  | nil => exact ⟨s, step_of_port_nil hp, hp, fun _ _ h => nomatch h⟩
  | cons a rest =>
    have hstep := step_of_port_cons hp
    cases a with
    | command w =>
      obtain ⟨t, r, ht, hport, hreplies, hproper⟩ := accept_answers w { s with port := rest }
      refine ⟨t, hstep.trans ht, hport, fun a _ h => ?_⟩
      obtain ⟨rfl, -⟩ := List.cons.inj h
      exact ⟨r, hreplies, hproper⟩
    | hardwareReset =>
      refine ⟨({ s with port := rest } : State).resetBlock, hstep, rfl, fun a _ h => ?_⟩
      obtain ⟨rfl, -⟩ := List.cons.inj h
      rfl

end Sys2Proof.Machine
